-- ==== Sys2Proof/Word.lean ====
section
/-! DEFINITION. The bit-vector types of AMX (00_scope.md R9, R10) and their plainest arithmetic. -/

namespace Sys2Proof

/-- One byte of external memory (20_memory.md R70). -/
abbrev Byte := BitVec 8

/-- `u32`: a register of the host window, an argument, a memory address (00_scope.md R9). -/
abbrev Word := BitVec 32

/-- `u64`: NOW, the cycle counter, a tag, a timestamp (00_scope.md R9). -/
abbrev DWord := BitVec 64

/-- A binary32 bit pattern (00_scope.md R10).  It is kept as bits because software sees it as bits
(SET_PORT_LEVEL's argument, a sample in memory, a delivered float slot). -/
abbrev F32 := BitVec 32

/-- `v[31:0]` of a 64-bit value. -/
def lo32 (v : DWord) : Word := v.setWidth 32

/-- `v[63:32]` of a 64-bit value. -/
def hi32 (v : DWord) : Word := (v >>> 32).setWidth 32

/-- `hi ++ lo` (00_scope.md R9: the first operand is the high half). -/
def join64 (hi lo : Word) : DWord := hi.setWidth 64 <<< 32 ||| lo.setWidth 64

end Sys2Proof
end

