-- ==== Sys2Proof/Syntax.lean ====
section
/-! DEFINITION. The commands of AMX-CMD v1: one constructor per row of spec/opcode_table.json
(30_encoding.md R92).  PORT is the only operand of a command word (R95); the other operands come from
the argument registers latched with the command (R93) and so are state, not syntax. -/

namespace Sys2Proof

/-- A decoded command.  `p` is PORT, "zero-extended to an unsigned integer" (R90). -/
inductive Instr where
  /-- INIT, OP 0x01 -/
  | init
  /-- QUIT, OP 0x02 -/
  | quit
  /-- PORT_OPEN, OP 0x10 -/
  | portOpen
  /-- PORT_CLOSE, OP 0x11 -/
  | portClose (p : Nat)
  /-- PORT_START, OP 0x12 -/
  | portStart (p : Nat)
  /-- PORT_STOP, OP 0x13 -/
  | portStop (p : Nat)
  /-- SET_PORT_LEVEL, OP 0x14 -/
  | setPortLevel (p : Nat)
  /-- GET_PORT_CONFIG, OP 0x20 -/
  | getPortConfig (p : Nat)
  /-- GET_PORT_TIMESTAMP, OP 0x21 -/
  | getPortTimestamp (p : Nat)
  /-- GET_PORT_BLOCK_TAG, OP 0x22 -/
  | getPortBlockTag (p : Nat)
  /-- ADD_DATA, OP 0x30: reserved, always completes with ILLEGAL_CMD (41_port_control.md R145) -/
  | addData (p : Nat)
  deriving DecidableEq, Repr

end Sys2Proof
end

