-- ==== Sys2Proof/WellFormed.lean ====
section
/-! DEFINITION. Which terms of Instr a command word can carry: PORT is an 8-bit field (30_encoding.md
R90).  The commands without a port have no field to check. -/

namespace Sys2Proof

/-- The PORT field a command carries; 0 for INIT, QUIT and PORT_OPEN (R90). -/
def Instr.portField : Instr → Nat
  | .init => 0
  | .quit => 0
  | .portOpen => 0
  | .portClose p => p
  | .portStart p => p
  | .portStop p => p
  | .setPortLevel p => p
  | .getPortConfig p => p
  | .getPortTimestamp p => p
  | .getPortBlockTag p => p
  | .addData p => p

/-- PORT fits bits 15:8 of the word (R90). -/
abbrev Instr.wf (i : Instr) : Prop := i.portField < 256

end Sys2Proof
end

