-- ==== Sys2Proof/Decode.lean ====
section
/-! DEFINITION. Decoding a command word (30_encoding.md R90, R91, R96), total on every word and
rejecting by name; and, after it, the encoder written from the same table (R92). -/

namespace Sys2Proof

/-- Why a word is illegal (R91, R96).  Each of them makes AMX complete the command with ILLEGAL_CMD.
ADD_DATA is not among them: it decodes to its own constructor, whose meaning gives that status. -/
inductive IllegalWord where
  /-- RSVD (bits 31:16) is not 0 -/
  | reservedBits
  /-- OP (bits 7:0) is not in the opcode map -/
  | unknownOpcode
  /-- INIT, QUIT or PORT_OPEN with PORT ≠ 0 -/
  | portNotZero
  deriving DecidableEq, Repr

/-- What a word decodes to. -/
inductive Decoded where
  | command (i : Instr)
  | illegal (why : IllegalWord)
  deriving DecidableEq, Repr

/-- OP = w[7:0] (R23). -/
def opField (w : Word) : Nat := w.toNat % 256

/-- PORT = w[15:8], zero-extended (R90). -/
def portBits (w : Word) : Nat := w.toNat / 256 % 256

/-- RSVD = w[31:16] (R90). -/
def rsvdField (w : Word) : Nat := w.toNat / 65536

/-- A command without a port: its PORT field must be 0 (R91). -/
def needsPortZero (port : Nat) (i : Instr) : Decoded :=
  if port = 0 then .command i else .illegal .portNotZero

/-- R91's cases, in its order: RSVD, opcode map, PORT of INIT, QUIT and PORT_OPEN. -/
def decode (w : Word) : Decoded :=
  if rsvdField w ≠ 0 then .illegal .reservedBits
  else
    match opField w with
    | 0x01 => needsPortZero (portBits w) .init
    | 0x02 => needsPortZero (portBits w) .quit
    | 0x10 => needsPortZero (portBits w) .portOpen
    | 0x11 => .command (.portClose (portBits w))
    | 0x12 => .command (.portStart (portBits w))
    | 0x13 => .command (.portStop (portBits w))
    | 0x14 => .command (.setPortLevel (portBits w))
    | 0x20 => .command (.getPortConfig (portBits w))
    | 0x21 => .command (.getPortTimestamp (portBits w))
    | 0x22 => .command (.getPortBlockTag (portBits w))
    | 0x30 => .command (.addData (portBits w))
    | _ => .illegal .unknownOpcode

/-- The instruction a table word decodes to: AMX has one length, 32 bits (R90), so a word is its low
32 bits; `nbits` says how many of the bits of `w` the row gives. -/
def decodeTableWord (nbits w : Nat) : Option Instr :=
  match decode (BitVec.ofNat 32 (w % 2 ^ nbits)) with
  | .command i => some i
  | .illegal _ => none

/-- OP of a command (R92). -/
def Instr.opcode : Instr → Nat
  | .init => 0x01
  | .quit => 0x02
  | .portOpen => 0x10
  | .portClose _ => 0x11
  | .portStart _ => 0x12
  | .portStop _ => 0x13
  | .setPortLevel _ => 0x14
  | .getPortConfig _ => 0x20
  | .getPortTimestamp _ => 0x21
  | .getPortBlockTag _ => 0x22
  | .addData _ => 0x30

/-- The command word `(PORT << 8) | OP` (R90, R99). -/
def encode (i : Instr) : Word := BitVec.ofNat 32 (i.portField * 256 + i.opcode)

/-- `mask` of a command's row of the opcode map (R92). -/
def Instr.rowMask : Instr → Word
  | .init => 0xFFFFFFFF#32
  | .quit => 0xFFFFFFFF#32
  | .portOpen => 0xFFFFFFFF#32
  | .portClose _ => 0xFFFF00FF#32
  | .portStart _ => 0xFFFF00FF#32
  | .portStop _ => 0xFFFF00FF#32
  | .setPortLevel _ => 0xFFFF00FF#32
  | .getPortConfig _ => 0xFFFF00FF#32
  | .getPortTimestamp _ => 0xFFFF00FF#32
  | .getPortBlockTag _ => 0xFFFF00FF#32
  | .addData _ => 0xFFFF00FF#32

/-- `match` of a command's row of the opcode map (R92). -/
def Instr.rowMatch : Instr → Word
  | .init => 0x00000001#32
  | .quit => 0x00000002#32
  | .portOpen => 0x00000010#32
  | .portClose _ => 0x00000011#32
  | .portStart _ => 0x00000012#32
  | .portStop _ => 0x00000013#32
  | .setPortLevel _ => 0x00000014#32
  | .getPortConfig _ => 0x00000020#32
  | .getPortTimestamp _ => 0x00000021#32
  | .getPortBlockTag _ => 0x00000022#32
  | .addData _ => 0x00000030#32

/-- "a word `w` selects the row when `w & mask == match`" (R92). -/
def Instr.rowSelects (i : Instr) (w : Word) : Bool := w &&& i.rowMask == i.rowMatch

end Sys2Proof
end

