-- ==== Sys2Proof/Config.lean ====
section
/-! DEFINITION. The constants the spec fixes (00_scope.md R6), the parameters it leaves open (R7) as
one record that State carries, and the free values (93_implementation_defined.md) as opaque constants. -/

namespace Sys2Proof.Config

/-- FRAMES: frames per block and per mix cycle (R6). -/
abbrev frames : Nat := 256

/-- RAW_CH: raw accumulator channels (R6). -/
abbrev rawCh : Nat := 8

/-- NSLOTS: output slots and capacity of the queue (R6). -/
abbrev nslots : Nat := 32

/-- MAX_BLOCKS: the largest blockCount (R6). -/
abbrev maxBlocks : Nat := 16

/-- DEFAULT_GAIN = 1.0 as binary32 (R6). -/
def defaultGain : F32 := 0x3F800000#32

/-- FREE VALUE.  The bits drawn for the `k`-th NaN result of the machine: the payload and the sign of a
NaN that fadd or fmul makes are unspecified (R10; 93_implementation_defined.md "NaN payload").  No
body: nothing can be proved about the bits.  `Machine.nanFrom` turns them into a NaN encoding. -/
opaque freeNaNBits : Nat → BitVec 32

/-- FREE VALUE.  PCM16_NAN, the int16 that conv16 gives for the `k`-th NaN input: "any value", one
draw per sample (45_format_output.md R212; 93_implementation_defined.md). -/
opaque freePcm16 : Nat → BitVec 16

/-- How many draw numbers one step of the cycle engine owns.  One MIX step makes at most 32 binary32
operations a frame and one CONVERT step at most 2 conversions a frame. -/
def drawsPerStep : Nat := frames * 32

end Sys2Proof.Config

namespace Sys2Proof

/-- The parameters the document leaves open (00_scope.md R7, 92_eei_decisions.md D2, D3, D5, D15, D21,
D22, D28, D30, D31, D33).  "A model takes each as an argument": State carries this record, no step
changes it, and a statement over all states is a statement over all parameter values.  PCM16_NAN is
not here: it is a draw (`Config.freePcm16`). -/
structure Params where
  /-- PORT_COUNT, number of ports -/
  portCount : Nat
  /-- CYCLE_TICKS, ticks of NOW per mix cycle -/
  cycleTicks : Nat
  /-- MEM_BIG_ENDIAN, byte order of port regions and read-index words -/
  memBigEndian : Bool
  /-- OUT_BIG_ENDIAN, byte order of a serialised output slot (R219) -/
  outBigEndian : Bool
  /-- MIX_K, the downmix blend coefficient as binary32 (R201) -/
  mixK : F32
  /-- PCM16_SCALE, the int16 scale factor as a binary32 value -/
  pcm16Scale : F32
  /-- PCM16_MIN, the lowest int16 output -/
  pcm16Min : Int
  /-- SLOT_MIXES, mix cycles per output slot -/
  slotMixes : Nat
  /-- REGION_STRIDE, bytes between consecutive port regions -/
  regionStride : Nat
  /-- ADDR_WIDTH, width of a memory address -/
  addrWidth : Nat
  /-- INITLEVEL_MASK, the init-level attribute bit of PORT_OPEN's attr (R132) -/
  initlevelMask : Word
  deriving DecidableEq, Repr

/-- The reference value of every parameter (R7; INITLEVEL_MASK from R132, OUT_BIG_ENDIAN from R219). -/
def Params.reference : Params where
  portCount := 8
  cycleTicks := 5333
  memBigEndian := true
  outBigEndian := false
  mixK := 0x3F353F7D#32
  pcm16Scale := 0x47000000#32
  pcm16Min := -32768
  slotMixes := 2
  regionStride := 0x20000
  addrWidth := 32
  initlevelMask := 0x00001000#32

/-- SLOT_SAMPLES = 2 × SLOT_MIXES × 256 (R8). -/
def Params.slotSamples (p : Params) : Nat := 2 * (p.slotMixes * Config.frames)

/-- The admitted parameter values: R7 (1 ≤ PORT_COUNT ≤ 256, PCM16_MIN ∈ {−32768, −32767}), R33 (WMIX
is an 8-bit field, so SLOT_MIXES ≤ 256), R74 (every region address is a multiple of 4, every
read-index address of 8), R35 (addresses are kept in 32-bit fields), a finite positive scale. -/
abbrev Params.wf (p : Params) : Prop :=
  1 ≤ p.portCount ∧ p.portCount ≤ 256 ∧
  1 ≤ p.slotMixes ∧ p.slotMixes ≤ 256 ∧
  (p.pcm16Min = -32768 ∨ p.pcm16Min = -32767) ∧
  p.regionStride % 4 = 0 ∧
  3 ≤ p.addrWidth ∧ p.addrWidth ≤ 32 ∧
  0 < p.pcm16Scale.toNat ∧ p.pcm16Scale.toNat < 0x7F800000

end Sys2Proof
end

