-- ==== Sys2Proof/Machine/State.lean ====
section
/-! DEFINITION. The whole state of AMX and of the agents around it, as plain data, with its value
right after reset (10_state.md R20–R45, 70_reset_and_hazards.md R290). -/

namespace Sys2Proof.Machine

/-- The status codes of 60_exceptions.md R260. -/
inductive Status where
  | ok
  | alreadyInit
  | notInit
  | param
  | portFull
  /-- reserved, raised by no rule (R261) -/
  | portOpen
  | portNotOpen
  | portAlreadyRun
  | portNotRun
  /-- reserved, raised by no rule (R261) -/
  | eventQueue
  | illegalCmd
  deriving DecidableEq, Repr

/-- PHASE of the cycle engine (R21, R37). -/
inductive Phase where
  | idle
  | mix
  | convert
  | hold
  | notify
  deriving DecidableEq, Repr

/-- ARG0–ARG3 (R27). -/
structure Args where
  a0 : Word
  a1 : Word
  a2 : Word
  a3 : Word
  deriving DecidableEq, Repr

/-- RES0–RES5 (R28). -/
structure Results where
  r0 : Word
  r1 : Word
  r2 : Word
  r3 : Word
  r4 : Word
  r5 : Word
  deriving DecidableEq, Repr

/-- CMDL, the latched command (R37).  CMD reads back its word (R23). -/
structure CmdLatch where
  word : Word
  arg  : Args
  deriving DecidableEq, Repr

/-- What the host window stores (R22).  The registers missing here are views: CMD of `cmdl.word`,
CMDSTAT of the three status fields, GSTATE, PORTS_IN_USE, QSTAT and the LO counters of other state
(Flags.lean). -/
structure Regs where
  cmdl : CmdLatch
  /-- CMDSTAT.STATUS (R24) -/
  status : Status
  /-- CMDSTAT.BUSY (R24) -/
  busy : Bool
  /-- CMDSTAT.OVERRUN (R24) -/
  overrun : Bool
  args : Args
  res : Results
  /-- CFG_REGION_BASE (R30) -/
  cfgRegionBase : Word
  /-- CFG_INDEX_BASE (R31) -/
  cfgIndexBase : Word
  /-- CFG_OUT (R32) -/
  cfgOut : Word
  /-- the shadow that CYCLE_HI returns (R34) -/
  cycleHi : Word
  /-- the shadow that START_TS_HI returns (R34) -/
  startTsHi : Word
  deriving DecidableEq, Repr

/-- One entry of the port table (R35). -/
structure Port where
  opened : Bool
  started : Bool
  channels : BitVec 8
  blockCount : BitVec 8
  attr : Word
  gain : F32
  bufferBase : Word
  readIndexAddress : Word
  tag : DWord
  lastServicedCounter : DWord
  deriving DecidableEq, Repr

/-- Every field 0: the port-table entry after reset (R45) and after INIT (R110). -/
def Port.zero : Port where
  opened := false
  started := false
  channels := 0
  blockCount := 0
  attr := 0
  gain := 0
  bufferBase := 0
  readIndexAddress := 0
  tag := 0
  lastServicedCounter := 0

/-- The global state of R37 that belongs to the lifetime of the block. -/
structure Life where
  initialized : Bool
  running : Bool
  stopping : Bool
  finalized : Bool
  sinkFail : Bool
  stopReq : Bool
  quitPending : Bool
  portsInUse : BitVec 9
  cycleCounter : DWord
  startTimestamp : DWord
  deriving DecidableEq, Repr

/-- The cycle engine: PHASE and anyActive (R37), the accumulators (R40), and how far the MIX and the NOTIFY
phase have come, which the loops of R190 and R240 imply (log entry 4). -/
structure Engine where
  phase : Phase
  anyActive : Bool
  /-- the port MIX is at -/
  mixPort : Nat
  /-- the samples of `mixPort`'s block that are read so far, in address order -/
  mixBuf : List F32
  /-- the block of `mixPort` is mixed, and its zero writes are under way -/
  mixZeroing : Bool
  /-- how many of these zero writes are done -/
  mixPos : Nat
  /-- the port NOTIFY is at -/
  notifyAt : Nat
  /-- R240's `np` of port `notifyAt`, once its entry is advanced and until `np` is written -/
  notifyWord : Option Nat
  /-- ACC2[f] = (left, right) -/
  acc2 : List (F32 × F32)
  /-- ACC8[f][c] -/
  acc8 : List (List F32)
  deriving DecidableEq, Repr

/-- A sample of an output slot: an int16 when OUT_FMT = 0, a binary32 bit pattern when OUT_FMT = 1
(R41). -/
inductive Sample where
  | pcm16 (v : BitVec 16)
  | float (v : F32)
  deriving DecidableEq, Repr

/-- The output slots and the handoff queue (R41). -/
structure OutPath where
  /-- SLOT[0..31] -/
  slots : List (List Sample)
  /-- WSLOT -/
  wslot : Fin 32
  /-- WMIX -/
  wmix : Nat
  /-- Q, oldest first -/
  q : List (Fin 32)
  /-- SENT -/
  sent : Bool
  deriving DecidableEq, Repr

/-- The input signals (R38) and the reset input (R290). -/
structure Inputs where
  now : DWord
  pause : Bool
  envStop : Bool
  sinkOk : Bool
  captureOk : Bool
  resetIn : Bool
  deriving DecidableEq, Repr

/-- What the platform puts behind a range of memory addresses (20_memory.md R76, R77). -/
inductive MemKind where
  /-- memory without side effects -/
  | plain
  /-- a device whose reads have side effects: outside the spec (R76) -/
  | device
  deriving DecidableEq, Repr

/-- A range `[base, base + size)` of the platform's memory map.  Addresses in no range are unbacked. -/
structure MemRange where
  base : Nat
  size : Nat
  kind : MemKind
  deriving DecidableEq, Repr

/-- The next step of one of the agents of 00_scope.md R14, or a change of an input signal. -/
inductive Turn where
  /-- AMX: its latched command, or else its cycle engine -/
  | amx
  /-- the host writes `v` at byte offset `off` of the window, `width` bits wide (R80) -/
  | hostWrite (off : BitVec 8) (width : Nat) (v : Word)
  /-- the host reads at byte offset `off` of the window, `width` bits wide (R80) -/
  | hostRead (off : BitVec 8) (width : Nat)
  /-- the consumer pops the slot stream (R217) -/
  | pop
  /-- a producer writes bytes at consecutive memory addresses (R78) -/
  | produce (addr : Word) (bytes : List Byte)
  | setNow (v : DWord)
  | setPause (v : Bool)
  | setEnvStop (v : Bool)
  | setSinkOk (v : Bool)
  | setCaptureOk (v : Bool)
  /-- the reset input changes level (R290) -/
  | setReset (v : Bool)
  deriving DecidableEq, Repr

/-- What AMX presents on its output interfaces in one step (R39, R270; R80, R81 for the bus). -/
inductive Output where
  /-- a register-bus response: `error` for R81, and the data of a read -/
  | bus (error : Bool) (data : Word)
  /-- the cycle-done event (R244) -/
  | cycleDone (cycle : DWord)
  /-- the raw-capture event: ACC8, frame-major (R246) -/
  | rawCapture (samples : List F32)
  /-- a SLOT item: OUT_FMT and the samples (R217) -/
  | slot (fmt : Bool) (samples : List Sample)
  /-- the SENTINEL item (R217) -/
  | sentinel
  deriving DecidableEq, Repr

/-- Why the machine stops with no next step. -/
inductive Fault where
  /-- The cycle engine's access at `addr` finds memory the platform does not back: "the cycle engine is
  stuck at that access (toward unprovable)" (R77).  Raised by MIX and NOTIFY.  Safe. -/
  | memoryUnbacked (addr : Nat)
  deriving DecidableEq, Repr

/-- What the model gives no meaning to. -/
inductive Refusal where
  /-- An instruction whose meaning is not written.  Raised by an arm of `exec` only.  Safe. -/
  | notModelled (mnemonic : String)
  /-- The cycle engine's access at `addr` reaches a device with read side effects: "a model refuses such
  a configuration" (R76).  Raised by MIX and NOTIFY.  Safe. -/
  | sideEffectMemory (addr : Nat)
  deriving DecidableEq, Repr

/-- The machine: AMX's own state (R20–R45), what the platform fixes (`par`, `memMap`), the memory, the
input signals, and the agents' next turns, oldest first.  `draws` and `waiting` are the model's own
fields (log entries 9 and 16). -/
structure State where
  par : Params
  memMap : List MemRange
  regs : Regs
  life : Life
  ports : List Port
  eng : Engine
  out : OutPath
  mem : List Host.Cell
  inputs : Inputs
  turns : List Turn
  outputs : List Output
  /-- how many free values have been drawn -/
  draws : Nat
  /-- the consumer waits for an item of the slot stream (R217, R268) -/
  waiting : Bool
  deriving DecidableEq, Repr

/-- What one step of the machine, or one command's meaning, answers. -/
abbrev Result := Host.Outcome State Fault Refusal

/-- The registers of the host window (R22). -/
inductive Reg where
  | cmd | cmdstat | gstate | portsInUse
  | arg0 | arg1 | arg2 | arg3
  | res0 | res1 | res2 | res3 | res4 | res5
  | cfgRegionBase | cfgIndexBase | cfgOut
  | cycleLo | cycleHi | startTsLo | startTsHi
  | qstat
  deriving DecidableEq, Repr

/-- The registers after reset: the reset column of R22. -/
def Regs.reset : Regs where
  cmdl := ⟨0, ⟨0, 0, 0, 0⟩⟩
  status := .ok
  busy := false
  overrun := false
  args := ⟨0, 0, 0, 0⟩
  res := ⟨0, 0, 0, 0, 0, 0⟩
  cfgRegionBase := 0
  cfgIndexBase := 0
  cfgOut := 0
  cycleHi := 0
  startTsHi := 0

/-- The global state after reset (R45). -/
def Life.reset : Life where
  initialized := false
  running := false
  stopping := false
  finalized := false
  sinkFail := false
  stopReq := false
  quitPending := false
  portsInUse := 0
  cycleCounter := 0
  startTimestamp := 0

/-- The cycle engine after reset (R45).  R45 leaves the accumulators unspecified; zero here is a
DESIGN CHOICE (log entry 1).  MIX and NOTIFY are at their beginning (log entry 4). -/
def Engine.reset : Engine where
  phase := .idle
  anyActive := false
  mixPort := 0
  mixBuf := []
  mixZeroing := false
  mixPos := 0
  notifyAt := 0
  notifyWord := none
  acc2 := List.replicate Config.frames (0, 0)
  acc8 := List.replicate Config.frames (List.replicate Config.rawCh 0)

/-- The output path after reset (R45).  R45 leaves the slot contents unspecified; int16 zeros here are a
DESIGN CHOICE (log entry 2). -/
def OutPath.reset (p : Params) : OutPath where
  slots := List.replicate Config.nslots (List.replicate p.slotSamples (.pcm16 0))
  wslot := 0
  wmix := 0
  q := []
  sent := false

/-- The input signals of the machine right after reset: the spec gives an input no value, so these are a
DESIGN CHOICE (log entry 13). -/
def Inputs.reset : Inputs where
  now := 0
  pause := false
  envStop := false
  sinkOk := true
  captureOk := true
  resetIn := false

/-- The whole 32-bit space as plain memory (DESIGN CHOICE, log entry 6). -/
def wholeSpace : List MemRange := [⟨0, 2 ^ 32, .plain⟩]

/-- The machine right after reset (R45, R290), with the reference parameters, no memory listed and no
turn of another agent to come. -/
def State.reset : State where
  par := Params.reference
  memMap := wholeSpace
  regs := Regs.reset
  life := Life.reset
  ports := List.replicate Params.reference.portCount Port.zero
  eng := Engine.reset
  out := OutPath.reset Params.reference
  mem := []
  inputs := Inputs.reset
  turns := []
  outputs := []
  draws := 0
  waiting := false

end Sys2Proof.Machine
end

