-- ==== Sys2Proof/Machine/Ops.lean ====
section
/-! DEFINITION. The shared operations: memory (20_memory.md R72–R77), the port table, and the completion of a
command (00_scope.md R13).  AMX takes no exception (60_exceptions.md R266): `finish` is what stands in the
place of exception entry, the one operation through which every command reports an error, and there is no
return from it (R267). -/

namespace Sys2Proof.Machine

/-! ### Bytes of memory -/

/-- What a byte of memory that nothing has written reads as: the memory provider's ranges are
"zero-initialized" (R77, R294; log entry 5). -/
def unlisted : Byte := 0

/-- The byte at `a`. -/
def memGet : List Host.Cell → Nat → Byte
  | [], _ => unlisted
  | (b, v) :: r, a => if b = a then v else memGet r a

/-- Memory with the byte at `a` set to `v`, in the canonical form: addresses rising, and no entry for a byte
that reads as an unlisted one does. -/
def memPut : List Host.Cell → Nat → Byte → List Host.Cell
  | [], a, v => if v = unlisted then [] else [(a, v)]
  | (b, w) :: r, a, v =>
    if a < b then
      if v = unlisted then (b, w) :: r else (a, v) :: (b, w) :: r
    else if a = b then
      if v = unlisted then r else (a, v) :: r
    else (b, w) :: memPut r a v

/-- The canonical form: addresses strictly rising, and no entry equal to what an unlisted address reads
as. -/
abbrev Memory.wf (m : List Host.Cell) : Prop :=
  (m.map Prod.fst).Pairwise (· < ·) ∧ ∀ c ∈ m, c.2 ≠ unlisted

/-! ### Accesses of the memory master port -/

/-- An address reduced modulo 2^ADDR_WIDTH (R75). -/
def wrapAddr (p : Params) (a : Nat) : Nat := a % 2 ^ p.addrWidth

/-- Which power of 2^8 the byte at offset `k` of an `n`-byte value carries (R72). -/
def byteRank (p : Params) (n k : Nat) : Nat := if p.memBigEndian then n - 1 - k else k

/-- `MemRead(a, n)` (R12, R72). -/
def memRead (p : Params) (m : List Host.Cell) (a n : Nat) : Nat :=
  ((List.range n).map fun k => (memGet m (wrapAddr p (a + k))).toNat * 2 ^ (8 * byteRank p n k)).sum

/-- `MemWrite(a, n, v)` (R12, R72). -/
def memWrite (p : Params) (m : List Host.Cell) (a n v : Nat) : List Host.Cell :=
  (List.range n).foldl
    (fun m k => memPut m (wrapAddr p (a + k)) (BitVec.ofNat 8 (v / 2 ^ (8 * byteRank p n k)))) m

/-- `ld_f32(a)` (R12, R192). -/
def ldF32 (p : Params) (m : List Host.Cell) (a : Nat) : F32 := BitVec.ofNat 32 (memRead p m a 4)

/-- `st_zero(a, n)` (R12, R199). -/
def stZero (p : Params) (m : List Host.Cell) (a n : Nat) : List Host.Cell := memWrite p m a n 0

/-- Whether `a` lies in a range of the platform's memory map. -/
def rangeHolds (r : MemRange) (a : Nat) : Bool := decide (r.base ≤ a ∧ a < r.base + r.size)

/-- What the platform puts behind address `a`; none when it backs it with nothing. -/
def memKind (map : List MemRange) (a : Nat) : Option MemKind :=
  (map.find? fun r => rangeHolds r a).map MemRange.kind

/-- How an access to the byte at `a` stops the machine: stuck at unbacked memory (R77), refused at a device
with read side effects (R76), and not at all at plain memory. -/
def byteStop (s : State) (a : Nat) : Option Result :=
  match memKind s.memMap a with
  | none => some (.fault (.memoryUnbacked a))
  | some .device => some (.refused (.sideEffectMemory a))
  | some .plain => none

/-- The first byte, if any, at which an `n`-byte access at `a` stops the machine. -/
def accessStop (s : State) (n a : Nat) : Option Result :=
  (List.range n).findSome? fun k => byteStop s (wrapAddr s.par (a + k))

/-- The first of several `n`-byte accesses, in the order they are issued, that stops the machine. -/
def accessesStop (s : State) (n : Nat) (as : List Nat) : Option Result := as.findSome? (accessStop s n)

/-! ### The port table -/

/-- `port[i]` (R11). -/
def State.port (s : State) (i : Nat) : Port := s.ports.getD i Port.zero

/-- `port[i] <- p` (R11). -/
def State.setPort (s : State) (i : Nat) (p : Port) : State := { s with ports := s.ports.set i p }

/-- A port entry made Closed; its other fields are kept (R35, R117). -/
def Port.close (e : Port) : Port := { e with opened := false, started := false }

/-- A port entry with `started` set to `b` (R35). -/
def Port.withStarted (e : Port) (b : Bool) : Port := { e with started := b }

/-- A port entry with gain `g` (R35). -/
def Port.withGain (e : Port) (g : F32) : Port := { e with gain := g }

/-! ### Commands -/

/-- A CMD write accepts the command word `w`: the word and the four arguments are latched and BUSY is set
(R23, R27). -/
def acceptCommand (w : Word) (s : State) : State :=
  { s with regs := { s.regs with cmdl := ⟨w, s.regs.args⟩, busy := true } }

/-- `finish(code)`: the command ends with this status (R13).  With a code other than OK nothing else is
changed (R262). -/
def finish (code : Status) (s : State) : State :=
  { s with regs := { s.regs with status := code, busy := false } }

/-- The result registers are written (R28). -/
def State.setRes (s : State) (r : Results) : State := { s with regs := { s.regs with res := r } }

/-- A command other than INIT needs INITIALIZED = 1, else NOT_INIT (R260, R263). -/
def whenInit (s : State) (body : Result) : Result :=
  if s.life.initialized then body else .next (finish .notInit s)

/-- The checks that every command with a PORT field makes first, in this order (R141): INITIALIZED = 1, else
NOT_INIT; PORT < PORT_COUNT, else PARAM.  Then the command goes on with its port's entry. -/
def withPort (p : Nat) (s : State) (body : Port → Result) : Result :=
  whenInit s (if p < s.par.portCount then body (s.port p) else .next (finish .param s))

/-- The next check of the commands that need an open port: PORT_NOT_OPEN for a Closed port. -/
def whenOpened (e : Port) (s : State) (body : Result) : Result :=
  if e.opened then body else .next (finish .portNotOpen s)

/-- The next check of the commands that need a Started port: PORT_NOT_RUN for an Opened one. -/
def whenStarted (e : Port) (s : State) (body : Result) : Result :=
  if e.started then body else .next (finish .portNotRun s)

end Sys2Proof.Machine
end

