-- ==== Sys2Proof/Machine/Flags.lean ====
section
/-! DEFINITION. The words that the host reads of flags and of other state: CMDSTAT (R24), GSTATE (R25),
PORTS_IN_USE (R26), QSTAT (R33); the fields of CFG_OUT (R32); the numbers of the status codes (R260). -/

namespace Sys2Proof.Machine

/-- A word with bit `k` set to `b`. -/
def bitAt (b : Bool) (k : Nat) : Word := if b then 1#32 <<< k else 0

/-- The number of a status code (R260). -/
def statusCode : Status → Word
  | .ok => 0x00
  | .alreadyInit => 0x01
  | .notInit => 0x02
  | .param => 0x03
  | .portFull => 0x04
  | .portOpen => 0x05
  | .portNotOpen => 0x06
  | .portAlreadyRun => 0x07
  | .portNotRun => 0x08
  | .eventQueue => 0x09
  | .illegalCmd => 0x0A

/-- CMDSTAT: STATUS 7:0, BUSY 8, OVERRUN 9 (R24). -/
def cmdstatWord (s : State) : Word :=
  statusCode s.regs.status ||| bitAt s.regs.busy 8 ||| bitAt s.regs.overrun 9

/-- GSTATE.HOLD: the cycle engine holds for a free output slot (R25, R220).  It is the view PHASE = HOLD
(log entry 15). -/
def gstateHold (s : State) : Bool := s.eng.phase == .hold

/-- GSTATE: INITIALIZED 0, RUNNING 1, STOPPING 2, FINALIZED 3, PAUSED 4 (the PAUSE input, at all times),
SINK_FAIL 5, HOLD 6 (R25). -/
def gstateWord (s : State) : Word :=
  bitAt s.life.initialized 0 ||| bitAt s.life.running 1 ||| bitAt s.life.stopping 2 |||
  bitAt s.life.finalized 3 ||| bitAt s.inputs.pause 4 ||| bitAt s.life.sinkFail 5 |||
  bitAt (gstateHold s) 6

/-- PORTS_IN_USE: portsInUse in bits 8:0 (R26). -/
def portsInUseWord (s : State) : Word := s.life.portsInUse.setWidth 32

/-- QSTAT: QCOUNT 5:0, WSLOT 12:8, WMIX 23:16, SENT 28 (R33). -/
def qstatWord (s : State) : Word :=
  (BitVec.ofNat 6 s.out.q.length).setWidth 32 |||
  (BitVec.ofNat 5 s.out.wslot.val).setWidth 32 <<< 8 |||
  (BitVec.ofNat 8 s.out.wmix).setWidth 32 <<< 16 |||
  bitAt s.out.sent 28

/-- CFG_OUT.OUT_FMT: false 16-bit integer output, true binary32 (R32, R210). -/
def outFmt (s : State) : Bool := s.regs.cfgOut.getLsbD 0

/-- CFG_OUT.CAPTURE_EN (R32). -/
def captureEn (s : State) : Bool := s.regs.cfgOut.getLsbD 1

end Sys2Proof.Machine
end

