-- ==== Sys2Proof/Machine/Operands.lean ====
section
/-! DEFINITION. Operands and results of commands (30_encoding.md R93–R95): which argument registers a command
reads, how a 64-bit operand is put together, where a 64-bit result goes. -/

namespace Sys2Proof.Machine

/-- `CMDL.arg[0]` as a u32 or as binary32 bits, unchanged (R95). -/
def arg0 (s : State) : Word := s.regs.cmdl.arg.a0

/-- `CMDL.arg[1]`. -/
def arg1 (s : State) : Word := s.regs.cmdl.arg.a1

/-- `CMDL.arg[2]`. -/
def arg2 (s : State) : Word := s.regs.cmdl.arg.a2

/-- `CMDL.arg[3]`. -/
def arg3 (s : State) : Word := s.regs.cmdl.arg.a3

/-- A 64-bit operand: `CMDL.arg[1] ++ CMDL.arg[0]` (R95). -/
def arg64 (s : State) : DWord := join64 (arg1 s) (arg0 s)

/-- A 64-bit result: RES0 takes the low half, RES1 the high half (R95); the others are left (R94). -/
def State.setRes64 (s : State) (v : DWord) : State :=
  s.setRes { s.regs.res with r0 := lo32 v, r1 := hi32 v }

/-- A result in RES0 alone (R94, PORT_OPEN). -/
def State.setRes0 (s : State) (v : Word) : State := s.setRes { s.regs.res with r0 := v }

/-- How many of ARG0, ARG1, ... a command reads (R93). -/
def argsRead : Instr → Nat
  | .init => 0
  | .quit => 0
  | .portOpen => 4
  | .portClose _ => 0
  | .portStart _ => 0
  | .portStop _ => 0
  | .setPortLevel _ => 1
  | .getPortConfig _ => 0
  | .getPortTimestamp _ => 2
  | .getPortBlockTag _ => 2
  | .addData _ => 0

/-- How many of RES0, RES1, ... a command writes when it completes with OK (R94). -/
def resWritten : Instr → Nat
  | .init => 0
  | .quit => 0
  | .portOpen => 1
  | .portClose _ => 0
  | .portStart _ => 0
  | .portStop _ => 0
  | .setPortLevel _ => 0
  | .getPortConfig _ => 6
  | .getPortTimestamp _ => 2
  | .getPortBlockTag _ => 2
  | .addData _ => 0

end Sys2Proof.Machine
end

