-- ==== Sys2Proof/Machine/Bus.lean ====
section
/-! DEFINITION. The host register bus (20_memory.md R80, R81) over the register map (10_state.md R22), and the
host's expansion of a command into register writes (30_encoding.md R99). -/

namespace Sys2Proof.Machine

/-- The register at a byte offset of the window (R22). -/
def regAt (off : BitVec 8) : Option Reg :=
  match off.toNat with
  | 0x00 => some .cmd
  | 0x04 => some .cmdstat
  | 0x08 => some .gstate
  | 0x0C => some .portsInUse
  | 0x10 => some .arg0
  | 0x14 => some .arg1
  | 0x18 => some .arg2
  | 0x1C => some .arg3
  | 0x20 => some .res0
  | 0x24 => some .res1
  | 0x28 => some .res2
  | 0x2C => some .res3
  | 0x30 => some .res4
  | 0x34 => some .res5
  | 0x40 => some .cfgRegionBase
  | 0x44 => some .cfgIndexBase
  | 0x48 => some .cfgOut
  | 0x50 => some .cycleLo
  | 0x54 => some .cycleHi
  | 0x58 => some .startTsLo
  | 0x5C => some .startTsHi
  | 0x60 => some .qstat
  | _ => none

/-- The register an access reaches: none, a bus error, for a width other than 32 bits, an offset that is not a
multiple of 4, or an offset no register occupies (R81). -/
def busTarget (off : BitVec 8) (width : Nat) : Option Reg :=
  if width = 32 ∧ off.toNat % 4 = 0 then regAt off else none

/-- What a register reads as (R22–R34). -/
def regRead (s : State) : Reg → Word
  | .cmd => s.regs.cmdl.word
  | .cmdstat => cmdstatWord s
  | .gstate => gstateWord s
  | .portsInUse => portsInUseWord s
  | .arg0 => s.regs.args.a0
  | .arg1 => s.regs.args.a1
  | .arg2 => s.regs.args.a2
  | .arg3 => s.regs.args.a3
  | .res0 => s.regs.res.r0
  | .res1 => s.regs.res.r1
  | .res2 => s.regs.res.r2
  | .res3 => s.regs.res.r3
  | .res4 => s.regs.res.r4
  | .res5 => s.regs.res.r5
  | .cfgRegionBase => s.regs.cfgRegionBase
  | .cfgIndexBase => s.regs.cfgIndexBase
  | .cfgOut => s.regs.cfgOut
  | .cycleLo => lo32 s.life.cycleCounter
  | .cycleHi => s.regs.cycleHi
  | .startTsLo => lo32 s.life.startTimestamp
  | .startTsHi => s.regs.startTsHi
  | .qstat => qstatWord s

/-- The side effect of a read: CYCLE_LO and START_TS_LO copy the high half into the shadow (R34, R80). -/
def readEffect (s : State) : Reg → State
  | .cycleLo => { s with regs := { s.regs with cycleHi := hi32 s.life.cycleCounter } }
  | .startTsLo => { s with regs := { s.regs with startTsHi := hi32 s.life.startTimestamp } }
  | _ => s

/-- A CMD write: accepted while BUSY = 0, else dropped with OVERRUN (R23). -/
def writeCmd (v : Word) (s : State) : State :=
  if s.regs.busy then { s with regs := { s.regs with overrun := true } } else acceptCommand v s

/-- A write to a CFG register is ignored while INITIALIZED = 1 (R30–R32). -/
def whenUninit (s : State) (r : Regs) : State := if s.life.initialized then s else { s with regs := r }

/-- The effect of a host write on each register; a write to a read-only register is ignored (R22, R80). -/
def regWrite (s : State) (v : Word) : Reg → State
  | .cmd => writeCmd v s
  | .cmdstat => { s with regs := { s.regs with overrun := s.regs.overrun && !v.getLsbD 9 } }
  | .arg0 => { s with regs := { s.regs with args := { s.regs.args with a0 := v } } }
  | .arg1 => { s with regs := { s.regs with args := { s.regs.args with a1 := v } } }
  | .arg2 => { s with regs := { s.regs with args := { s.regs.args with a2 := v } } }
  | .arg3 => { s with regs := { s.regs with args := { s.regs.args with a3 := v } } }
  | .cfgRegionBase => whenUninit s { s.regs with cfgRegionBase := v &&& 0xFFFFFFFC#32 }
  | .cfgIndexBase => whenUninit s { s.regs with cfgIndexBase := v &&& 0xFFFFFFF8#32 }
  | .cfgOut => whenUninit s { s.regs with cfgOut := v &&& 0x00000003#32 }
  | .gstate => s
  | .portsInUse => s
  | .res0 => s
  | .res1 => s
  | .res2 => s
  | .res3 => s
  | .res4 => s
  | .res5 => s
  | .cycleLo => s
  | .cycleHi => s
  | .startTsLo => s
  | .startTsHi => s
  | .qstat => s

/-- The bus answers an access. -/
def State.respond (s : State) (error : Bool) (data : Word) : State :=
  { s with outputs := s.outputs ++ [.bus error data] }

/-- A host read (R80, R81).  Under reset AMX answers nothing (R290). -/
def hostRead (off : BitVec 8) (width : Nat) (s : State) : State :=
  if s.inputs.resetIn then s
  else
    match busTarget off width with
    | none => s.respond true 0
    | some r => (readEffect s r).respond false (regRead s r)

/-- A host write (R80, R81).  Under reset AMX answers nothing (R290). -/
def hostWrite (off : BitVec 8) (width : Nat) (v : Word) (s : State) : State :=
  if s.inputs.resetIn then s
  else
    match busTarget off width with
    | none => s.respond true 0
    | some r => (regWrite s v r).respond false 0

/-- The register writes a host expands a command into, before it waits for BUSY = 0: the ARG registers that R93
names, in order, then CMD (R99). -/
def commandWrites (i : Instr) (a : Args) : List Turn :=
  [Turn.hostWrite 0x10 32 a.a0, Turn.hostWrite 0x14 32 a.a1, Turn.hostWrite 0x18 32 a.a2,
    Turn.hostWrite 0x1C 32 a.a3].take (argsRead i) ++ [Turn.hostWrite 0x00 32 (encode i)]

end Sys2Proof.Machine
end

