-- ==== Sys2Proof/Machine/Cadence.lean ====
section
/-! DEFINITION. The cadence scheduler (43_cadence.md): the due test, the start of a mix cycle, the pause; and
GET_PORT_TIMESTAMP. -/

namespace Sys2Proof.Machine

/-- `elapsed = NOW - startTimestamp`, modulo 2^64 (R170, R178). -/
def elapsed (s : State) : DWord := s.inputs.now - s.life.startTimestamp

/-- A mix cycle is due: `cycleCounter × CYCLE_TICKS < elapsed`, the product exact (R170, R177). -/
def cycleDue (s : State) : Bool :=
  decide (s.life.cycleCounter.toNat * s.par.cycleTicks < (elapsed s).toNat)

/-- The cycle counter counts a cycle (R170). -/
def countCycle (s : State) : State :=
  { s with life := { s.life with cycleCounter := s.life.cycleCounter + 1 } }

/-- MIX begins at port 0 with no port mixed yet (R173, R190). -/
def startMix (s : State) : State :=
  { s with
    eng := { s.eng with
      phase := .mix, anyActive := false, mixPort := 0, mixBuf := [], mixZeroing := false, mixPos := 0 } }

/-- An evaluation step of the scheduler (R170): nothing when no cycle is due; a due cycle is counted, and then
skipped under PAUSE (R176) or begun (R173). -/
def evaluate (s : State) : State :=
  if cycleDue s then
    if s.inputs.pause then countCycle s else startMix (countCycle s)
  else s

/-- The time at which tag `t`'s block is mixed, in u64 arithmetic (R180). -/
def tagTimestamp (s : State) (e : Port) (t : DWord) : DWord :=
  s.life.startTimestamp +
    (e.lastServicedCounter + (t - e.tag)) * BitVec.ofNat 64 s.par.cycleTicks

/-- GET_PORT_TIMESTAMP (R180). -/
def execGetPortTimestamp (p : Nat) (s : State) : Result :=
  withPort p s fun e =>
    whenOpened e s
      (whenStarted e s (.next (finish .ok (s.setRes64 (tagTimestamp s e (arg64 s))))))

end Sys2Proof.Machine
end

