-- ==== Sys2Proof/Machine/Lifecycle.lean ====
section
/-! DEFINITION. The lifecycle (40_lifecycle.md): INIT, QUIT, the stop request and finalize(). -/

namespace Sys2Proof.Machine

/-- finalize() (R116): every port Closed, the partly filled slot discarded, the sentinel pushed, FINALIZED,
PHASE IDLE.  Port fields other than `opened` and `started` are kept (R117). -/
def finalize (s : State) : State :=
  { s with
    ports := s.ports.map Port.close
    life := { s.life with
      portsInUse := 0, running := false, stopping := false, stopReq := false, finalized := true }
    out := { s.out with wmix := 0, sent := true }
    eng := { s.eng with phase := .idle } }

/-- A sink failed to open: the playback sink, or the capture sink when CAPTURE_EN = 1 (R112). -/
def sinkOpenFailed (s : State) : Bool :=
  !s.inputs.sinkOk || (captureEn s && !s.inputs.captureOk)

/-- What INIT sets before it finalizes or starts running (R110). -/
def initialState (s : State) : State :=
  { s with
    life := { Life.reset with
      initialized := true, sinkFail := sinkOpenFailed s, startTimestamp := s.inputs.now }
    ports := List.replicate s.par.portCount Port.zero
    out := { s.out with wslot := 0, wmix := 0, q := [], sent := false }
    eng := { s.eng with phase := .idle } }

/-- The cycle engine starts to run mix cycles (R110). -/
def State.startRunning (s : State) : State := { s with life := { s.life with running := true } }

/-- INIT (R110–R112). -/
def execInit (s : State) : Result :=
  if s.life.initialized then .next (finish .alreadyInit s)
  else if sinkOpenFailed s then .next (finish .ok (finalize (initialState s)))
  else .next (finish .ok (initialState s).startRunning)

/-- A stop is requested: stopReq and STOPPING are set (R114, R118). -/
def requestStop (s : State) : State :=
  { s with life := { s.life with stopReq := true, stopping := true } }

/-- QUIT waits from here on, and asks for a stop unless the block is finalized already (R114). -/
def quitRequested (s : State) : State :=
  let s := { s with life := { s.life with quitPending := true } }
  if s.life.finalized then s else requestStop s

/-- What QUIT holds for: "finalization done and the sentinel popped" (R114). -/
def quitMayComplete (s : State) : Bool := s.life.finalized && !s.out.sent

/-- The end of the lifetime (R114).  SINK_FAIL, portsInUse and the counters stay. -/
def endLifetime (s : State) : State :=
  { s with life := { s.life with
      initialized := false, running := false, stopping := false, finalized := false
      stopReq := false, quitPending := false } }

/-- QUIT (R114).  Until finalization is done and the sentinel is popped it holds: it stays latched with BUSY
= 1, and the machine runs it again when it may complete (log entry 20). -/
def execQuit (s : State) : Result :=
  whenInit s
    (if quitMayComplete (quitRequested s) then .next (finish .ok (endLifetime (quitRequested s)))
     else .next (quitRequested s))

end Sys2Proof.Machine
end

