-- ==== Sys2Proof/Machine/RingAddress.lean ====
section
/-! DEFINITION. The ring-buffer address-offset calculator (42_ring_address.md) and the two commands that
report it: GET_PORT_CONFIG and GET_PORT_BLOCK_TAG. -/

namespace Sys2Proof.Machine

/-- `regionAddress(i)` (R150). -/
def regionAddress (s : State) (i : Nat) : Word :=
  BitVec.ofNat 32 (wrapAddr s.par (s.regs.cfgRegionBase.toNat + i * s.par.regionStride))

/-- `indexAddress(i)` (R151). -/
def indexAddress (s : State) (i : Nat) : Word :=
  BitVec.ofNat 32 (wrapAddr s.par (s.regs.cfgIndexBase.toNat + 8 * i))

/-- `position(i) = tag mod blockCount` (R152). -/
def position (e : Port) : Nat := e.tag.toNat % e.blockCount.toNat

/-- `nextPosition(i)` (R154). -/
def nextPosition (e : Port) : Nat := (position e + 1) % e.blockCount.toNat

/-- `blockAddress(i)` (R152). -/
def blockAddress (p : Params) (e : Port) : Nat :=
  wrapAddr p (e.bufferBase.toNat + position e * e.channels.toNat * Config.frames * 4)

/-- `sampleAddress(i, f, c)` (R152). -/
def sampleAddress (p : Params) (e : Port) (f c : Nat) : Nat :=
  wrapAddr p (blockAddress p e + 4 * (f * e.channels.toNat + c))

/-- `regionSize(i)` in bytes (R153). -/
def regionSize (e : Port) : Word :=
  BitVec.ofNat 32 (e.blockCount.toNat * e.channels.toNat * Config.frames * 4)

/-- The six results of GET_PORT_CONFIG for port `p` (R155, R156). -/
def configResults (s : State) (p : Nat) (e : Port) : Results :=
  if e.opened then
    { r0 := if e.started then 2 else 1
      r1 := e.channels.setWidth 32
      r2 := e.blockCount.setWidth 32
      r3 := regionSize e
      r4 := e.bufferBase
      r5 := e.readIndexAddress }
  else
    { r0 := 0, r1 := 0, r2 := 0, r3 := 0, r4 := regionAddress s p, r5 := indexAddress s p }

/-- GET_PORT_CONFIG (R155). -/
def execGetPortConfig (p : Nat) (s : State) : Result :=
  withPort p s fun e => .next (finish .ok (s.setRes (configResults s p e)))

/-- The next tag at which block `b` will be read, in u64 arithmetic (R158): the current round's block-aligned
base plus `b`, one round later when the block "has already passed in the current round". -/
def nextBlockTag (e : Port) (b : DWord) : DWord :=
  let base := e.tag - BitVec.ofNat 64 (position e)
  if b.toNat < position e then base + e.blockCount.setWidth 64 + b else base + b

/-- GET_PORT_BLOCK_TAG (R158). -/
def execGetPortBlockTag (p : Nat) (s : State) : Result :=
  withPort p s fun e =>
    whenOpened e s
      (if arg64 s ≥ e.blockCount.setWidth 64 then .next (finish .param s)
       else .next (finish .ok (s.setRes64 (nextBlockTag e (arg64 s)))))

end Sys2Proof.Machine
end

