-- ==== Sys2Proof/Machine/PortControl.lean ====
section
/-! DEFINITION. The port control commands (41_port_control.md): PORT_OPEN, PORT_CLOSE, PORT_START, PORT_STOP,
SET_PORT_LEVEL and the refused ADD_DATA. -/

namespace Sys2Proof.Machine

/-- `channels ∈ {2, 6, 8} and 1 ≤ blockCount ≤ 16`, the operands PORT_OPEN takes (R130, C1). -/
def openOperandsOk (ch nb : Word) : Bool :=
  (ch == 2 || ch == 6 || ch == 8) && decide (1 ≤ nb.toNat) && decide (nb.toNat ≤ Config.maxBlocks)

/-- "finds first Closed slot": the smallest index of a Closed port (R130, R131). -/
def firstClosed (s : State) : Option Nat :=
  (List.range s.par.portCount).find? fun i => !(s.port i).opened

/-- The entry PORT_OPEN writes for port `i` from its four latched arguments (R130, R132). -/
def openedPort (s : State) (i : Nat) : Port where
  opened := true
  started := false
  channels := (arg0 s).setWidth 8
  blockCount := (arg1 s).setWidth 8
  attr := arg2 s
  gain := if arg2 s &&& s.par.initlevelMask = 0 then Config.defaultGain else arg3 s
  bufferBase := regionAddress s i
  readIndexAddress := indexAddress s i
  tag := 0
  lastServicedCounter := 0

/-- portsInUse changes with a port's opening or closing (R26). -/
def State.setPortsInUse (s : State) (n : BitVec 9) : State :=
  { s with life := { s.life with portsInUse := n } }

/-- PORT_OPEN (R130): PARAM before PORT_FULL. -/
def execPortOpen (s : State) : Result :=
  whenInit s
    (if openOperandsOk (arg0 s) (arg1 s) then
      match firstClosed s with
      | none => .next (finish .portFull s)
      | some i =>
        .next (finish .ok
          (((s.setPort i (openedPort s i)).setPortsInUse (s.life.portsInUse + 1)).setRes0
            (BitVec.ofNat 32 i)))
    else .next (finish .param s))

/-- PORT_CLOSE (R133); a Started port closes directly (R134). -/
def execPortClose (p : Nat) (s : State) : Result :=
  withPort p s fun e =>
    whenOpened e s
      (.next (finish .ok
        ((s.setPort p e.close).setPortsInUse
          (s.life.portsInUse - 1))))

/-- PORT_START (R135): tag and lastServicedCounter are kept. -/
def execPortStart (p : Nat) (s : State) : Result :=
  withPort p s fun e =>
    whenOpened e s
      (if e.started then .next (finish .portAlreadyRun s)
       else .next (finish .ok (s.setPort p (e.withStarted true))))

/-- PORT_STOP (R137). -/
def execPortStop (p : Nat) (s : State) : Result :=
  withPort p s fun e =>
    whenOpened e s
      (whenStarted e s (.next (finish .ok (s.setPort p (e.withStarted false)))))

/-- SET_PORT_LEVEL (R139): every bit pattern is a gain. -/
def execSetPortLevel (p : Nat) (s : State) : Result :=
  withPort p s fun e =>
    whenOpened e s
      (whenStarted e s (.next (finish .ok (s.setPort p (e.withGain (arg0 s))))))

/-- ADD_DATA (R145): "completes with ILLEGAL_CMD and changes no state", before every other check (R91,
R263), whatever the port. -/
def execAddData (_p : Nat) (s : State) : Result := .next (finish .illegalCmd s)

end Sys2Proof.Machine
end

