-- ==== Sys2Proof/Machine/Dispatch.lean ====
section
/-! DEFINITION. One arm per command: its meaning (30_encoding.md R91, R92). -/

namespace Sys2Proof.Machine

def exec (i : Instr) (s : State) : Host.Outcome State Fault Refusal :=
  match i with
  | .init => Sys2Proof.Machine.execInit s
  | .quit => Sys2Proof.Machine.execQuit s
  | .portOpen => Sys2Proof.Machine.execPortOpen s
  | .portClose p => Sys2Proof.Machine.execPortClose p s
  | .portStart p => Sys2Proof.Machine.execPortStart p s
  | .portStop p => Sys2Proof.Machine.execPortStop p s
  | .setPortLevel p => Sys2Proof.Machine.execSetPortLevel p s
  | .getPortConfig p => Sys2Proof.Machine.execGetPortConfig p s
  | .getPortTimestamp p => Sys2Proof.Machine.execGetPortTimestamp p s
  | .getPortBlockTag p => Sys2Proof.Machine.execGetPortBlockTag p s
  | .addData p => Sys2Proof.Machine.execAddData p s

end Sys2Proof.Machine
end

