-- ==== Sys2Proof/Machine/Float.lean ====
section
/-! DEFINITION. binary32 arithmetic (00_scope.md R10: round to nearest, ties to even, gradual underflow,
NaN payload unspecified) and the conversion to int16 (45_format_output.md R212).

Every finite binary32 magnitude is a natural number of units of 2^-149, and every product of two is a
natural number of units of 2^-298; the results are computed exactly in those units and rounded once. -/

namespace Sys2Proof.Machine

/-- The sign bit. -/
def f32Sign (x : F32) : Bool := x.msb

/-- The biased exponent field, bits 30:23. -/
def f32Exp (x : F32) : Nat := x.toNat / 2 ^ 23 % 256

/-- The fraction field, bits 22:0. -/
def f32Frac (x : F32) : Nat := x.toNat % 2 ^ 23

def f32IsNaN (x : F32) : Bool := f32Exp x == 255 && f32Frac x != 0

def f32IsInf (x : F32) : Bool := f32Exp x == 255 && f32Frac x == 0

/-- Neither infinite nor NaN. -/
def f32IsFinite (x : F32) : Bool := f32Exp x != 255

/-- The magnitude of a finite value, in units of 2^-149. -/
def f32Units (x : F32) : Nat :=
  if f32Exp x = 0 then f32Frac x else (2 ^ 23 + f32Frac x) <<< (f32Exp x - 1)

/-- The bits of a sign and a magnitude below 2^31. -/
def f32Pack (sign : Bool) (magnitude : Nat) : F32 :=
  BitVec.ofNat 32 ((if sign then 2 ^ 31 else 0) + magnitude)

def f32Inf (sign : Bool) : F32 := f32Pack sign 0x7F800000

/-- `n / 2^k` rounded to the nearest integer, ties to even (`rne_int` of R10). -/
def rneShift (n k : Nat) : Nat :=
  let q := n >>> k
  let r := n % 2 ^ k
  if 2 * r > 2 ^ k ∨ (2 * r = 2 ^ k ∧ q % 2 = 1) then q + 1 else q

/-- The binary32 value nearest to `n` units of 2^-(149+d), ties to even.  The result keeps 24 bits, or
fewer when it is subnormal; the exponent and the significand are added, so that a significand that
rounds up to 2^24 carries into the exponent; what reaches the exponent 255 is infinite. -/
def f32Round (sign : Bool) (d n : Nat) : F32 :=
  let k := max (Nat.log2 n - 23) d
  let m := (k - d) * 2 ^ 23 + rneShift n k
  f32Pack sign (if m ≥ 0x7F800000 then 0x7F800000 else m)

/-- A NaN encoding from drawn bits: sign and payload as drawn, the exponent all ones, and payload 1 when
the drawn payload is 0 (that would be an infinity).  Every NaN encoding is the image of some bits. -/
def nanFrom (bits : Word) : F32 :=
  if bits &&& 0x007FFFFF#32 = 0 then bits ||| 0x7F800001#32 else bits ||| 0x7F800000#32

/-- The NaN that the `k`-th draw delivers (93_implementation_defined.md: "any value among NaN
encodings"). -/
def nanDraw (k : Nat) : F32 := nanFrom (Config.freeNaNBits k)

/-- The signed number of units of a finite value. -/
def f32Int (x : F32) : Int := if f32Sign x then -(f32Units x : Int) else (f32Units x : Int)

/-- fadd (R10).  `k` numbers the draw that a NaN result takes.  An exact zero sum is +0.0 unless both
operands are negative zeros. -/
def fadd (k : Nat) (a b : F32) : F32 :=
  if f32IsNaN a || f32IsNaN b then nanDraw k
  else if f32IsInf a then
    if f32IsInf b && f32Sign a != f32Sign b then nanDraw k else a
  else if f32IsInf b then b
  else
    let t := f32Int a + f32Int b
    if t = 0 then f32Pack (f32Sign a && f32Sign b) 0 else f32Round (decide (t < 0)) 0 t.natAbs

/-- fmul (R10).  `k` numbers the draw that a NaN result takes. -/
def fmul (k : Nat) (a b : F32) : F32 :=
  let sign := f32Sign a != f32Sign b
  if f32IsNaN a || f32IsNaN b then nanDraw k
  else if f32IsInf a then
    if f32IsFinite b && f32Units b == 0 then nanDraw k else f32Inf sign
  else if f32IsInf b then
    if f32Units a == 0 then nanDraw k else f32Inf sign
  else f32Round sign 149 (f32Units a * f32Units b)

/-- `sat(lo, hi, v)` (R9). -/
def sat (lo hi v : Int) : Int := if v < lo then lo else if v > hi then hi else v

/-- conv16 (R212): the exact product with PCM16_SCALE, rounded to the nearest integer, ties to even, then
saturated; an infinity saturates; a NaN takes the `k`-th draw of PCM16_NAN. -/
def conv16 (p : Params) (k : Nat) (x : F32) : BitVec 16 :=
  let sign := f32Sign x != f32Sign p.pcm16Scale
  if f32IsNaN x then Config.freePcm16 k
  else if f32IsInf x then BitVec.ofInt 16 (if sign then p.pcm16Min else 32767)
  else
    let n := rneShift (f32Units x * f32Units p.pcm16Scale) 298
    BitVec.ofInt 16 (sat p.pcm16Min 32767 (if sign then -(n : Int) else (n : Int)))

/-- convF (R213): the same 32 bits. -/
def convF (x : F32) : F32 := x

end Sys2Proof.Machine
end

