-- ==== Sys2Proof/Machine/Format.lean ====
section
/-! DEFINITION. The CONVERT phase, HOLD, the output slots, the handoff queue and the consumer's pop
(45_format_output.md). -/

namespace Sys2Proof.Machine

/-- One converted sample: conv16 or convF as CFG_OUT.OUT_FMT says (R210, R211).  `k` numbers the draw of a NaN
input's int16. -/
def convSample (p : Params) (fmt : Bool) (k : Nat) (x : F32) : Sample :=
  if fmt then .float (convF x) else .pcm16 (conv16 p k x)

/-- The 512 samples of one cycle's stereo mix, frame-interleaved, left first (R211). -/
def convertedMix (s : State) : List Sample :=
  (List.range Config.frames).flatMap fun f =>
    let a := s.eng.acc2.getD f (0, 0)
    [convSample s.par (outFmt s) (s.draws + 2 * f) a.1,
     convSample s.par (outFmt s) (s.draws + 2 * f + 1) a.2]

/-- `old` with `new` written over it from index `at_` on. -/
def writeOver (old : List Sample) (at_ : Nat) (new : List Sample) : List Sample :=
  old.take at_ ++ new ++ old.drop (at_ + new.length)

/-- The slot WSLOT after one more cycle's mix is written at its running offset, `WMIX × 256` frames (R211). -/
def filledSlot (s : State) : List Sample :=
  writeOver (s.out.slots.getD s.out.wslot.val []) (2 * (s.out.wmix * Config.frames)) (convertedMix s)

/-- WMIX counts the cycle; at the slot's capacity the slot is pushed and the next one is begun (R211, R216). -/
def advanceSlot (slotMixes : Nat) (o : OutPath) : OutPath :=
  if o.wmix + 1 = slotMixes then
    { o with q := o.q ++ [o.wslot], wslot := o.wslot + 1, wmix := 0 }
  else { o with wmix := o.wmix + 1 }

/-- The write of CONVERT, after which NOTIFY begins at port 0 (R173, R211). -/
def convertFill (s : State) : State :=
  { s with
    out := advanceSlot s.par.slotMixes { s.out with slots := s.out.slots.set s.out.wslot.val (filledSlot s) }
    eng := { s.eng with phase := .notify, notifyAt := 0, notifyWord := none }
    draws := s.draws + Config.drawsPerStep }

/-- Every output slot is in the queue (R211, R220). -/
def queueFull (s : State) : Bool := decide (Config.nslots ≤ s.out.q.length)

/-- The engine goes to another phase. -/
def State.setPhase (s : State) (ph : Phase) : State := { s with eng := { s.eng with phase := ph } }

/-- CONVERT: it enters HOLD when it would start a slot while the queue is full (R211, R220). -/
def convertStep (s : State) : State :=
  if s.out.wmix = 0 ∧ queueFull s = true then s.setPhase .hold else convertFill s

/-- The stop check of the cycle engine at a check point (R115): ENV_STOP requests a stop while RUNNING (R118);
a requested stop finalizes.  None: there is no stop to act on. -/
def stopCheck (s : State) : Option State :=
  if (s.life.running && s.inputs.envStop) || s.life.stopReq then
    some (finalize (if s.life.running && s.inputs.envStop then requestStop s else s))
  else none

/-- A step in HOLD (R220): a stop goes first (R271); a free slot lifts the hold and CONVERT goes on; else the
engine still holds. -/
def holdStep (s : State) : State :=
  match stopCheck s with
  | some t => t
  | none => if queueFull s then s else s.setPhase .convert

/-- The consumer's pop (R217): the oldest slot; the sentinel behind the last slot; or nothing yet, and the
consumer waits. -/
def consumerPop (s : State) : State :=
  match s.out.q with
  | j :: rest =>
    { s with
      out := { s.out with q := rest }
      outputs := s.outputs ++ [.slot (outFmt s) (s.out.slots.getD j.val [])]
      waiting := false }
  | [] =>
    if s.out.sent then
      { s with
        out := { s.out with sent := false }
        outputs := s.outputs ++ [.sentinel]
        waiting := false }
    else { s with waiting := true }

/-- The slot stream is valid (R217, R270). -/
def streamValid (s : State) : Bool := !s.out.q.isEmpty || s.out.sent

/-! ### Serialised items (R218, R219, R246) -/

/-- The `n` bytes of a value, least significant first. -/
def littleBytes (n v : Nat) : List Byte := (List.range n).map fun k => BitVec.ofNat 8 (v / 2 ^ (8 * k))

/-- The bytes of a sample: 2 for an int16, 4 for a binary32, in the order OUT_BIG_ENDIAN says (R218, R219). -/
def sampleBytes (p : Params) (x : Sample) : List Byte :=
  let le := match x with
    | .pcm16 v => littleBytes 2 v.toNat
    | .float v => littleBytes 4 v.toNat
  if p.outBigEndian then le.reverse else le

/-- The bytes of a SLOT item (R218). -/
def slotBytes (p : Params) (samples : List Sample) : List Byte := samples.flatMap (sampleBytes p)

/-- The bytes of a raw-capture event, "serialised little-endian" (R246). -/
def captureBytes (samples : List F32) : List Byte := samples.flatMap fun v => littleBytes 4 v.toNat

end Sys2Proof.Machine
end

