-- ==== Sys2Proof/Machine/Mixer.lean ====
section
/-! DEFINITION. The MIX phase (44_mixer.md): gain, the three downmix forms, accumulation, zeroing.  The cycle
engine takes it in one step for each memory access (20_memory.md R76, R79; log entry 4): the reads of a
started port's block, a step that mixes it, and its zero writes.

Every binary32 operation of the step that mixes a block has a draw number of its own, for the case that its
result is a NaN: frame `f` owns the numbers `32 f` to `32 f + 31` after `draws`. -/

namespace Sys2Proof.Machine

/-- The samples of one frame after gain, `s[c] = fmul(x[c], g)` (R193). -/
def gainFrame (k : Nat) (g : F32) (x : List F32) : List F32 :=
  (List.range x.length).map fun c => fmul (k + c) (x.getD c 0) g

/-- Downmix, 2 channels (L, R): pass through (R194). -/
def downmix2 (s : List F32) : F32 × F32 := (s.getD 0 0, s.getD 1 0)

/-- `mid = (C + LFE) * K` (R202, R203). -/
def downmixMid (K : F32) (k : Nat) (s : List F32) : F32 := fmul (k + 1) (fadd k (s.getD 2 0) (s.getD 3 0)) K

/-- Downmix, 6 channels (L, R, C, LFE, RL, RR) (R202). -/
def downmix6 (K : F32) (k : Nat) (s : List F32) : F32 × F32 :=
  let mid := downmixMid K k s
  (fadd (k + 3) (fadd (k + 2) (s.getD 0 0) (s.getD 4 0)) mid,
   fadd (k + 5) (fadd (k + 4) (s.getD 1 0) (s.getD 5 0)) mid)

/-- Downmix, 8 channels (L, R, C, LFE, RL, RR, SL, SR) (R203). -/
def downmix8 (K : F32) (k : Nat) (s : List F32) : F32 × F32 :=
  let mid := downmixMid K k s
  (fadd (k + 4) (fadd (k + 3) (fadd (k + 2) (s.getD 0 0) (s.getD 4 0)) (s.getD 6 0)) mid,
   fadd (k + 7) (fadd (k + 6) (fadd (k + 5) (s.getD 1 0) (s.getD 5 0)) (s.getD 7 0)) mid)

/-- The stereo result of a frame with `ch` channels (R191).  An open port has 2, 6 or 8 (R36). -/
def downmix (K : F32) (k ch : Nat) (s : List F32) : F32 × F32 :=
  if ch = 2 then downmix2 s else if ch = 6 then downmix6 K k s else downmix8 K k s

/-- One frame of the stereo and of the raw accumulator. -/
abbrev Frame := (F32 × F32) × List F32

/-- The first active port writes the accumulators: raw channels it does not have are +0.0 (R196, R200). -/
def writeFrame (stereo : F32 × F32) (raw : List F32) : Frame :=
  (stereo, (List.range Config.rawCh).map fun c => raw.getD c 0)

/-- A later active port adds into them: raw channels it does not have are unchanged (R197, R200). -/
def addFrame (k : Nat) (acc : Frame) (stereo : F32 × F32) (raw : List F32) : Frame :=
  ((fadd k acc.1.1 stereo.1, fadd (k + 1) acc.1.2 stereo.2),
   (List.range Config.rawCh).map fun c =>
     if c < raw.length then fadd (k + 2 + c) (acc.2.getD c 0) (raw.getD c 0) else acc.2.getD c 0)

/-- One frame of MIX (R190): gain, downmix, accumulate.  `first`: no port has been mixed yet this cycle. -/
def mixFrame (K : F32) (first : Bool) (k : Nat) (g : F32) (x : List F32) (acc : Frame) : Frame :=
  let s := gainFrame k g x
  let stereo := downmix K (k + 8) x.length s
  if first then writeFrame stereo s else addFrame (k + 16) acc stereo s

/-- How many samples a block of the port holds: BLOCK_SAMPLES (R8). -/
def blockLength (e : Port) : Nat := e.channels.toNat * Config.frames

/-- The address of sample `k` of the port's current block: frame `k / channels`, channel `k % channels`
(R152, R199). -/
def blockSample (p : Params) (e : Port) (k : Nat) : Nat := wrapAddr p (blockAddress p e + 4 * k)

/-- The addresses of the block's samples, ascending (R79, R199). -/
def blockSamples (p : Params) (e : Port) : List Nat := (List.range (blockLength e)).map (blockSample p e)

/-- Frame `f` of a block's samples `x` (R152, R191). -/
def blockFrame (e : Port) (x : List F32) (f : Nat) : List F32 :=
  (List.range e.channels.toNat).map fun c => x.getD (f * e.channels.toNat + c) 0

/-- Frame `f` of both accumulators. -/
def accFrame (g : Engine) (f : Nat) : Frame := (g.acc2.getD f (0, 0), g.acc8.getD f [])

/-- The accumulators after the samples `x` of port entry `e`'s block are mixed into them (R190). -/
def mixedFrames (s : State) (e : Port) (x : List F32) : List Frame :=
  (List.range Config.frames).map fun f =>
    mixFrame s.par.mixK (!s.eng.anyActive) (s.draws + 32 * f) e.gain (blockFrame e x f) (accFrame s.eng f)

/-- The accumulators are set frame by frame. -/
def Engine.setFrames (g : Engine) (fs : List Frame) : Engine :=
  { g with acc2 := fs.map Prod.fst, acc8 := fs.map Prod.snd }

/-- The next sample read of port `i`'s block (R192).  A producer's racing write is seen old or new, as R78 admits;
the race errs toward proving if the memory returns anything else (log entry 35). -/
def mixRead (i : Nat) (s : State) : Result :=
  let a := blockSample s.par (s.port i) s.eng.mixBuf.length
  match accessStop s 4 a with
  | some stop => stop
  | none => .next { s with eng := { s.eng with mixBuf := s.eng.mixBuf ++ [ldF32 s.par s.mem a] } }

/-- The samples `x` of port `i`'s block are mixed; the zero writes are next (R190). -/
def mixBlock (i : Nat) (x : List F32) (s : State) : State :=
  { s with
    eng := { s.eng.setFrames (mixedFrames s (s.port i) x) with mixBuf := [], mixZeroing := true, mixPos := 0 }
    draws := s.draws + Config.drawsPerStep }

/-- The next zero write of port `i`'s block (R199). -/
def mixZero (i : Nat) (s : State) : State :=
  { s with
    mem := stZero s.par s.mem (blockSample s.par (s.port i) s.eng.mixPos) 4
    eng := { s.eng with mixPos := s.eng.mixPos + 1 } }

/-- Port `i` is done: a port has been mixed this cycle (R190), and the next port follows. -/
def mixNext (i : Nat) (s : State) : State :=
  { s with eng := { s.eng with mixZeroing := false, mixPos := 0, anyActive := true, mixPort := i + 1 } }

/-- Silence: every element of ACC2 and ACC8 is +0.0 (R198). -/
def Engine.silence (g : Engine) : Engine :=
  g.setFrames (List.replicate Config.frames ((0, 0), List.replicate Config.rawCh 0))

/-- The end of MIX: silence if no port was active (R198), and CONVERT is next (R173). -/
def mixEnd (s : State) : State :=
  let g := if s.eng.anyActive then s.eng else s.eng.silence
  { s with eng := { g with phase := .convert, mixPort := 0, mixBuf := [], mixZeroing := false, mixPos := 0 } }

/-- One step for a started port: all reads of its block, then the mixing, then all zero writes (R79, R190); a
read stops as the memory says (R76, R77). -/
def mixStarted (i : Nat) (s : State) : Result :=
  if s.eng.mixZeroing then
    .next (if s.eng.mixPos < blockLength (s.port i) then mixZero i s else mixNext i s)
  else if s.eng.mixBuf.length < blockLength (s.port i) then mixRead i s
  else .next (mixBlock i s.eng.mixBuf s)

/-- One step of the MIX phase, over the ports in ascending order (R195).  A port that is not Started is passed
over. -/
def mixStep (s : State) : Result :=
  let i := s.eng.mixPort
  if i < s.par.portCount then
    if (s.port i).started then mixStarted i s
    else .next { s with eng := { s.eng with mixPort := i + 1 } }
  else .next (mixEnd s)

/-! ### R190's loop in one go

What the steps of MIX come to when no other agent's turn falls between them. -/

/-- The samples of the port's current block as memory holds them now (R192). -/
def readBlock (p : Params) (m : List Host.Cell) (e : Port) : List F32 := (blockSamples p e).map (ldF32 p m)

/-- Memory after all zero writes of the block of port entry `e` (R199). -/
def zeroBlock (p : Params) (m : List Host.Cell) (e : Port) : List Host.Cell :=
  (blockSamples p e).foldl (fun m a => stZero p m a 4) m

/-- A started port: its block read, mixed and zeroed. -/
def mixWholePort (i : Nat) (s : State) : State :=
  let e := s.port i
  mixNext i { mixBlock i (readBlock s.par s.mem e) s with mem := zeroBlock s.par s.mem e }

/-- The loop over a list of ports. -/
def mixPorts : List Nat → State → Result
  | [], s => .next s
  | i :: rest, s =>
    if (s.port i).started then
      match accessesStop s 4 (blockSamples s.par (s.port i)) with
      | some stop => stop
      | none => mixPorts rest (mixWholePort i s)
    else mixPorts rest s

/-- The whole MIX phase (R190). -/
def mixWhole (s : State) : Result :=
  match mixPorts (List.range s.par.portCount) s with
  | .next t => .next (mixEnd t)
  | .fault r => .fault r
  | .refused r => .refused r

end Sys2Proof.Machine
end

