-- ==== Sys2Proof/Machine/Notify.lean ====
section
/-! DEFINITION. The notification phase and the events of a cycle (46_notify.md).  The cycle engine takes two steps
for each started port, as R240 orders them: its entry is advanced, then its read-index word is written (log entry
4). -/

namespace Sys2Proof.Machine

/-- The entry of a mixed port after NOTIFY (R240). -/
def notifiedPort (s : State) (e : Port) : Port :=
  { e with lastServicedCounter := s.life.cycleCounter, tag := e.tag + 1 }

/-- Port `i`'s entry is advanced, and its next read position is to be published (R240). -/
def advancePort (i : Nat) (s : State) : State :=
  { s.setPort i (notifiedPort s (s.port i)) with
    eng := { s.eng with notifyWord := some (nextPosition (s.port i)) } }

/-- The read position `np` is published at port `i`'s read-index word (R241), and the next port follows. -/
def publishPort (i np : Nat) (s : State) : State :=
  { s with
    mem := memWrite s.par s.mem (s.port i).readIndexAddress.toNat 8 np
    eng := { s.eng with notifyWord := none, notifyAt := i + 1 } }

/-- The events of a cycle that was mixed: cycle-done, then raw-capture when CAPTURE_EN = 1 (R244, R246,
R247). -/
def cycleEvents (s : State) : List Output :=
  .cycleDone s.life.cycleCounter :: (if captureEn s then [.rawCapture s.eng.acc8.flatten] else [])

/-- The end of NOTIFY and of the cycle: the events, and PHASE IDLE (R173, R247). -/
def notifyEnd (s : State) : State :=
  { s with
    outputs := s.outputs ++ cycleEvents s
    eng := { s.eng with phase := .idle, notifyAt := 0, notifyWord := none } }

/-- One step for a started port: its entry is advanced, and then the read-index word is written, unless that access
stops (R76, R77, R240). -/
def notifyStarted (i : Nat) (s : State) : Result :=
  match s.eng.notifyWord with
  | none => .next (advancePort i s)
  | some np =>
    match accessStop s 8 (s.port i).readIndexAddress.toNat with
    | some stop => stop
    | none => .next (publishPort i np s)

/-- One step of the NOTIFY phase, over the ports in ascending order (R79, R240).  A port that is not Started is
passed over. -/
def notifyStep (s : State) : Result :=
  let i := s.eng.notifyAt
  if i < s.par.portCount then
    if (s.port i).started then notifyStarted i s
    else .next { s with eng := { s.eng with notifyAt := i + 1 } }
  else .next (notifyEnd s)

/-! ### R240's loop in one go

What the steps of NOTIFY come to when no other agent's turn falls between them. -/

/-- NOTIFY for one port (R240). -/
def notifyPort (s : State) (i : Nat) : State :=
  if (s.port i).started then
    { s.setPort i (notifiedPort s (s.port i)) with
      mem := memWrite s.par s.mem (s.port i).readIndexAddress.toNat 8 (nextPosition (s.port i)) }
  else s

/-- NOTIFY for every port, ascending (R240). -/
def notifyPorts (s : State) : State := (List.range s.par.portCount).foldl notifyPort s

end Sys2Proof.Machine
end

