-- ==== Sys2Proof/Machine/Engine.lean ====
section
/-! DEFINITION. The cycle engine (43_cadence.md R170, R173; 40_lifecycle.md R115): one step of it. -/

namespace Sys2Proof.Machine

/-- A step of the cycle engine in IDLE: it takes none unless RUNNING; the stop check goes before the due test
(R115, R271); while a command is latched (QUIT holding) there is no evaluation (R174). -/
def idleStep (s : State) : State :=
  if s.life.running then
    match stopCheck s with
    | some t => t
    | none => if s.regs.busy then s else evaluate s
  else s

/-- A step of the cycle engine, by PHASE (R173). -/
def engineStep (s : State) : Result :=
  match s.eng.phase with
  | .idle => .next (idleStep s)
  | .mix => mixStep s
  | .convert => .next (convertStep s)
  | .hold => .next (holdStep s)
  | .notify => notifyStep s

end Sys2Proof.Machine
end

