-- ==== Sys2Proof/Machine/Agents.lean ====
section
/-! DEFINITION. The agents' steps (00_scope.md R14): AMX's own turn, in which a latched command goes before the
cycle engine (43_cadence.md R174, 60_exceptions.md R271), the producers' writes, the input signals and the
reset input. -/

namespace Sys2Proof.Machine

/-- The latched word is the QUIT command. -/
def latchedQuit (s : State) : Bool := decide (decode s.regs.cmdl.word = .command .quit)

/-- A latched command can execute now: in PHASE = IDLE, and QUIT also in PHASE = HOLD (R174, R120); a QUIT that
holds goes on when finalization is done and the sentinel is popped (R114). -/
def commandReady (s : State) : Bool :=
  s.regs.busy &&
    (if s.life.quitPending then quitMayComplete s
     else s.eng.phase == .idle || (s.eng.phase == .hold && latchedQuit s))

/-- The latched command executes: an illegal word completes with ILLEGAL_CMD (R91, R96). -/
def runCommand (s : State) : Result :=
  match decode s.regs.cmdl.word with
  | .command i => exec i s
  | .illegal _ => .next (finish .illegalCmd s)

/-- AMX's turn: nothing under reset (R290), else a command that can execute, else the cycle engine (R174). -/
def amxStep (s : State) : Result :=
  if s.inputs.resetIn then .next s
  else if commandReady s then runCommand s
  else engineStep s

/-- A producer's write of bytes at consecutive addresses (R78). -/
def producerWrite (addr : Word) (bytes : List Byte) (s : State) : State :=
  { s with
    mem := (List.range bytes.length).foldl
      (fun m k => memPut m (wrapAddr s.par (addr.toNat + k)) (bytes.getD k 0)) s.mem }

/-- Every piece of AMX's state at its reset value (R45, R290).  Memory, the memory map, the parameters, the input
signals and the other agents' turns are not AMX's, and the draw counter goes on (log entries 9, 19). -/
def hardReset (s : State) : State :=
  { s with
    regs := Regs.reset
    life := Life.reset
    ports := List.replicate s.par.portCount Port.zero
    eng := Engine.reset
    out := OutPath.reset s.par }

/-- The reset input changes level; asserting it resets AMX (R290). -/
def setReset (v : Bool) (s : State) : State :=
  let s := { s with inputs := { s.inputs with resetIn := v } }
  if v then hardReset s else s

/-- One turn of an agent. -/
def takeTurn (t : Turn) (s : State) : Result :=
  match t with
  | .amx => amxStep s
  | .hostWrite off width v => .next (hostWrite off width v s)
  | .hostRead off width => .next (hostRead off width s)
  | .pop => .next (consumerPop s)
  | .produce addr bytes => .next (producerWrite addr bytes s)
  | .setNow v => .next { s with inputs := { s.inputs with now := v } }
  | .setPause v => .next { s with inputs := { s.inputs with pause := v } }
  | .setEnvStop v => .next { s with inputs := { s.inputs with envStop := v } }
  | .setSinkOk v => .next { s with inputs := { s.inputs with sinkOk := v } }
  | .setCaptureOk v => .next { s with inputs := { s.inputs with captureOk := v } }
  | .setReset v => .next (setReset v s)

/-- An event is presented for one step (R245): the next step begins with none. -/
def State.clearOutputs (s : State) : State := { s with outputs := [] }

/-- The state in which the agent whose turn it is moves: its turn is taken off the list, and nothing is presented
on the outputs. -/
def beginTurn (s : State) : State := { s.clearOutputs with turns := s.turns.tail }

/-- Whose turn it is: the oldest listed, or AMX's when none is listed (log entry 3). -/
def currentTurn (s : State) : Turn := s.turns.headD .amx

end Sys2Proof.Machine
end

