-- ==== Sys2Proof/Machine/Step.lean ====
section
/-! DEFINITION. One step of the machine: one turn of one agent (00_scope.md R14). -/

namespace Sys2Proof.Machine

/-- One step: the agent whose turn it is moves. -/
def step (s : State) : Host.Outcome State Fault Refusal := takeTurn (currentTurn s) (beginTurn s)

/-- The turns with AMX's before those listed; an empty list is AMX's turn already. -/
def amxFirst (turns : List Turn) : List Turn := if turns.isEmpty then [] else .amx :: turns

/-- `s` with the command word `w` accepted and the next turn AMX's, so that the next step executes it: the word
and the arguments latched and BUSY set as a CMD write does (R23), no QUIT holding, PHASE = IDLE (R174) and reset
not asserted (R290). -/
def State.withFetchWord (s : State) (nbits w : Nat) : State :=
  let t := acceptCommand (BitVec.ofNat 32 (w % 2 ^ nbits)) s
  { t with
    life := { t.life with quitPending := false }
    eng := { t.eng with phase := .idle }
    inputs := { t.inputs with resetIn := false }
    turns := amxFirst t.turns }

end Sys2Proof.Machine
end

