-- ==== Sys2Proof/Safety.lean ====
section
/-! DEFINITION. The invariants that the spec gives the machine, as one predicate on states that every step
keeps, and the holds and waits that 60_exceptions.md R268 keeps apart. -/

namespace Sys2Proof.Machine

/-- R36 for one port: `started ⇒ opened`, and an open port has 2, 6 or 8 channels, 1 to 16 blocks, and aligned
addresses (R74). -/
abbrev Port.wf (e : Port) : Prop :=
  (e.started = true → e.opened = true) ∧
  (e.opened = true →
    (e.channels = 2 ∨ e.channels = 6 ∨ e.channels = 8) ∧
    1 ≤ e.blockCount.toNat ∧ e.blockCount.toNat ≤ 16 ∧
    e.bufferBase.toNat % 4 = 0 ∧ e.readIndexAddress.toNat % 8 = 0)

/-- The slots in Q are the `|Q|` slots before WSLOT in ring order (R221). -/
abbrev inRingOrder (wslot : Fin 32) (q : List (Fin 32)) : Prop :=
  q.length ≤ 32 ∧
  q.map Fin.val = (List.range q.length).map fun k => (wslot.val + 32 - q.length + k) % 32

/-- The port table (R26, R35, R36). -/
structure PortsInv (s : State) : Prop where
  size : s.ports.length = s.par.portCount
  each : ∀ e ∈ s.ports, e.wf
  inUse : s.life.portsInUse.toNat = s.ports.countP Port.opened

/-- The lifecycle (R25, R114, R116, R121). -/
structure LifeInv (s : State) : Prop where
  /-- RUNNING and FINALIZED share out the lifetime between them -/
  alive : s.life.initialized = true → s.life.running = !s.life.finalized
  /-- nothing of a lifetime outlasts it -/
  dead : s.life.initialized = false →
    s.life.running = false ∧ s.life.stopping = false ∧ s.life.finalized = false ∧
    s.life.quitPending = false
  stopping : s.life.stopping = true → s.life.running = true
  /-- a failed INIT never runs (R112) -/
  sinkFail : s.life.running = true → s.life.sinkFail = false
  /-- STOPPING shows the stop request -/
  stopReq : s.life.stopReq = s.life.stopping
  /-- the sentinel belongs to a finalized block -/
  sent : s.out.sent = true → s.life.finalized = true
  /-- the engine leaves IDLE only while RUNNING (R25: HOLD = 1 implies RUNNING = 1) -/
  phase : s.eng.phase ≠ .idle → s.life.running = true
  /-- a QUIT that holds is the latched command, and its stop is requested or done -/
  quit : s.life.quitPending = true →
    s.regs.busy = true ∧ s.life.initialized = true ∧
    (s.life.finalized = true ∨ s.life.stopReq = true) ∧
    decode s.regs.cmdl.word = .command .quit

/-- The cycle engine (R40; log entry 4). -/
structure EngineInv (s : State) : Prop where
  acc2 : s.eng.acc2.length = Config.frames
  acc8 : s.eng.acc8.length = Config.frames
  acc8Frames : ∀ fr ∈ s.eng.acc8, fr.length = Config.rawCh
  /-- no block is half done outside MIX -/
  outside : s.eng.phase ≠ .mix → s.eng.mixBuf = [] ∧ s.eng.mixZeroing = false
  /-- the block under way is a Started port's -/
  underway : s.eng.mixBuf ≠ [] ∨ s.eng.mixZeroing = true →
    s.eng.mixPort < s.par.portCount ∧ (s.port s.eng.mixPort).started = true
  /-- a block is read once, and zeroed after it is mixed (R79) -/
  extent : s.eng.mixBuf.length ≤ blockLength (s.port s.eng.mixPort) ∧
    (s.eng.mixZeroing = true → s.eng.mixBuf = [])
  /-- a read position on its way to memory is a Started port's, in NOTIFY, and one of its blocks (R241) -/
  publishing : ∀ np ∈ s.eng.notifyWord,
    s.eng.phase = .notify ∧ s.eng.notifyAt < s.par.portCount ∧ (s.port s.eng.notifyAt).started = true ∧
      np < (s.port s.eng.notifyAt).blockCount.toNat

/-- The output path (R41, R216, R221). -/
structure OutInv (s : State) : Prop where
  slots : s.out.slots.length = Config.nslots
  samples : ∀ sl ∈ s.out.slots, sl.length = s.par.slotSamples
  wmix : s.out.wmix < s.par.slotMixes
  ring : inRingOrder s.out.wslot s.out.q
  /-- a slot is begun only when one is free -/
  begun : 0 < s.out.wmix → s.out.q.length < Config.nslots
  /-- the sentinel is delivered behind every slot (R217) -/
  drained : s.life.finalized = true ∨ s.life.initialized = false →
    s.out.sent = false → s.out.q = []

/-- The hardwired bits of the CFG registers (R30–R32) and the codes that STATUS never holds (R261). -/
structure RegsInv (s : State) : Prop where
  regionBase : s.regs.cfgRegionBase.toNat % 4 = 0
  indexBase : s.regs.cfgIndexBase.toNat % 8 = 0
  out : s.regs.cfgOut.toNat < 4
  status : s.regs.status ≠ .portOpen ∧ s.regs.status ≠ .eventQueue

/-- Memory: the canonical form, and no byte outside the address space (R70). -/
structure MemInv (s : State) : Prop where
  canonical : Memory.wf s.mem
  space : ∀ c ∈ s.mem, c.1 < 2 ^ s.par.addrWidth

/-- The invariant of the machine. -/
structure Inv (s : State) : Prop where
  params : s.par.wf
  ports : PortsInv s
  life : LifeInv s
  engine : EngineInv s
  out : OutInv s
  regs : RegsInv s
  memory : MemInv s

/-- A state from which no run of any length stops: it has a next state for every number of steps. -/
def NeverStops (s : State) : Prop := ∀ n, ∃ t, Host.Core.run Sys2Proof.core n s = .next t

/-- Every byte of the address space is plain memory: what a host must arrange (R294, R302) for the cycle engine
never to be stuck. -/
def FullyBacked (s : State) : Prop :=
  ∀ a, a < 2 ^ s.par.addrWidth → memKind s.memMap a = some .plain

/-- `n` steps of the cycle engine with no other agent's turn between them. -/
def engineRun : Nat → State → Result
  | 0, s => .next s
  | n + 1, s =>
    match engineStep s with
    | .next t => engineRun n t
    | .fault r => .fault r
    | .refused r => .refused r

/-! ### What commands leave alone -/

/-- What no command changes (R27, R70, R291): every byte of memory, the argument and configuration registers, the
latched command, OVERRUN, the shadows, the accumulators, the slot contents, the inputs, and everything that is not
AMX's. -/
structure CommandFrame (s t : State) : Prop where
  memory : ∀ a, memGet t.mem a = memGet s.mem a
  args : t.regs.args = s.regs.args
  cmdl : t.regs.cmdl = s.regs.cmdl
  overrun : t.regs.overrun = s.regs.overrun
  cfgRegionBase : t.regs.cfgRegionBase = s.regs.cfgRegionBase
  cfgIndexBase : t.regs.cfgIndexBase = s.regs.cfgIndexBase
  cfgOut : t.regs.cfgOut = s.regs.cfgOut
  cycleHi : t.regs.cycleHi = s.regs.cycleHi
  startTsHi : t.regs.startTsHi = s.regs.startTsHi
  acc2 : t.eng.acc2 = s.eng.acc2
  acc8 : t.eng.acc8 = s.eng.acc8
  slots : t.out.slots = s.out.slots
  inputs : t.inputs = s.inputs
  outputs : t.outputs = s.outputs
  turns : t.turns = s.turns
  par : t.par = s.par
  memMap : t.memMap = s.memMap
  draws : t.draws = s.draws
  waiting : t.waiting = s.waiting

/-- It is AMX's turn, and AMX is not under reset. -/
abbrev AmxMoves (s : State) : Prop := currentTurn s = .amx ∧ s.inputs.resetIn = false

/-- AMX is to execute its latched command: it moves, the command is latched, no QUIT holds, and PHASE = IDLE
(R174). -/
abbrev CommandRuns (s : State) : Prop :=
  AmxMoves s ∧ s.regs.busy = true ∧ s.life.quitPending = false ∧ s.eng.phase = .idle

/-! ### The holds and waits of R268 -/

/-- "command waits for the cycle to end" (R174). -/
def commandWaits (s : State) : Bool := s.regs.busy && !s.life.quitPending && !commandReady s

/-- "QUIT waits for finalization and the sentinel's pop" (R114). -/
def quitHolds (s : State) : Bool := s.life.quitPending && !quitMayComplete s

/-- "HOLD, converter waits for a free slot" (R220). -/
def engineHolds (s : State) : Bool := s.eng.phase == .hold

/-- "consumer waits for an item" (R217). -/
def consumerWaits (s : State) : Bool := s.waiting && !streamValid s

end Sys2Proof.Machine
end

