-- ==== Sys2Proof/Certificates/Slice0/Obligations.lean ====
section
/-! DEFINITION. The statements about the model, for the provers.  Each docstring names the rule of spec/ it
formalises; a clause that rests on a choice of the model names the log entry. -/

open Sys2Proof Sys2Proof.Machine

/-! ### Encoding (30_encoding.md) -/

/-- Words written out from the opcode map (R92) decode to the commands they stand for, and one illegal word of each
kind (R96) is refused by name. -/
def Obligations.WordsOfTheMapDecode : Prop :=
  decode 0x00000001#32 = .command .init ∧
  decode 0x00000002#32 = .command .quit ∧
  decode 0x00000010#32 = .command .portOpen ∧
  decode 0x00000311#32 = .command (.portClose 3) ∧
  decode 0x0000FF12#32 = .command (.portStart 255) ∧
  decode 0x00000913#32 = .command (.portStop 9) ∧
  decode 0x00000214#32 = .command (.setPortLevel 2) ∧
  decode 0x00000320#32 = .command (.getPortConfig 3) ∧
  decode 0x00000021#32 = .command (.getPortTimestamp 0) ∧
  decode 0x00000022#32 = .command (.getPortBlockTag 0) ∧
  decode 0x00000030#32 = .command (.addData 0) ∧
  decode 0x00010001#32 = .illegal .reservedBits ∧
  decode 0x00000915#32 = .illegal .unknownOpcode ∧
  decode 0x00000101#32 = .illegal .portNotZero

/-- R91: the cases of decode, over the fields RSVD, PORT and OP of the latched word. -/
def Obligations.DecodeFollowsItsCases : Prop :=
  ∀ (s : State) (rsvd : BitVec 16) (port op : BitVec 8),
    s.regs.cmdl.word = (rsvd ++ port ++ op : BitVec 32) →
    let map : List (BitVec 8) := [0x01, 0x02, 0x10, 0x11, 0x12, 0x13, 0x14, 0x20, 0x21, 0x22, 0x30]
    let portless : List (BitVec 8) := [0x01, 0x02, 0x10]
    let illegal : Prop :=
      runCommand s = .next { s with regs := { s.regs with status := .illegalCmd, busy := false } }
    (rsvd ≠ 0 → illegal) ∧
    (op ∉ map → illegal) ∧
    (op = 0x30 → illegal) ∧
    (op ∈ portless → port ≠ 0 → illegal) ∧
    (rsvd = 0 → op ∈ map → op ≠ 0x30 → (op ∈ portless → port = 0) →
      ∃ i : Instr, i.opcode = op.toNat ∧ i.portField = port.toNat ∧ runCommand s = exec i s)

/-- Decode and encode agree: the encoding of a well-formed command decodes to it, whatever its port. -/
def Obligations.DecodeEncodeAgree : Prop := ∀ i : Instr, i.wf → decode (encode i) = .command i

/-- Every word that decodes to a command is well-formed, is the encoding of that command, and selects its row of the
opcode map (R92). -/
def Obligations.EncodeDecodeAgree : Prop :=
  ∀ (w : Word) (i : Instr), decode w = .command i →
    i.wf ∧ encode i = w ∧ w &&& i.rowMask = i.rowMatch

/-! ### The step (43_cadence.md R174, 10_state.md R21) -/

/-- A step in which AMX is to execute its latched command runs the decoded command, on the state whose turn is taken
and whose outputs are cleared. -/
def Obligations.StepRunsLatchedCommand : Prop :=
  ∀ (s : State) (i : Instr), CommandRuns s → decode s.regs.cmdl.word = .command i →
    step s = exec i { s with turns := s.turns.tail, outputs := [] }

/-- `withFetchWord` places a command so that the very next step runs exactly it; the other agents' turns come after
it (log entry 34). -/
def Obligations.FetchWordRuns : Prop :=
  ∀ (s : State) (i : Instr), i.wf →
    step (s.withFetchWord 32 (encode i).toNat) =
      exec i { s with
        regs := { s.regs with cmdl := ⟨encode i, s.regs.args⟩, busy := true }
        life := { s.life with quitPending := false }
        eng := { s.eng with phase := .idle }
        inputs := { s.inputs with resetIn := false }
        outputs := [] }

/-- R96: an illegal word completes with ILLEGAL_CMD and changes no other state. -/
def Obligations.IllegalWordCompletes : Prop :=
  ∀ (s : State) (why : IllegalWord), CommandRuns s → decode s.regs.cmdl.word = .illegal why →
    step s = .next { s with
      turns := s.turns.tail
      outputs := []
      regs := { s.regs with status := .illegalCmd, busy := false } }

/-- R174: in IDLE a latched command goes first; QUIT also executes in HOLD; any other command stays latched while a
cycle runs, whatever the engine does; while QUIT holds there is no evaluation.  That an illegal word, too, stays latched
while a cycle runs is the model's reading, log entry 29.  And, a command latched or not, a cycle sees one port table
from MIX to NOTIFY, which itself writes only tags and service counters, and is cut short only in HOLD (R115): so says
the engine's step of every state, and, under the invariant, every step of the machine but a hardware reset. -/
def Obligations.CommandsAndCyclesExclude : Prop :=
  (∀ s : State, AmxMoves s → s.regs.busy = true →
    (s.life.quitPending = false → s.eng.phase = .idle → step s = runCommand (beginTurn s)) ∧
    (s.life.quitPending = false → s.eng.phase = .hold → decode s.regs.cmdl.word = .command .quit →
      step s = runCommand (beginTurn s)) ∧
    (s.life.quitPending = false → s.eng.phase ≠ .idle →
      (s.eng.phase = .hold → decode s.regs.cmdl.word ≠ .command .quit) →
      step s = engineStep (beginTurn s) ∧ ∀ t, step s = .next t → t.regs = s.regs) ∧
    (s.life.quitPending = true → s.eng.phase = .idle → quitMayComplete s = false →
      ∃ t, step s = .next t ∧ t.regs = s.regs ∧ t.eng.phase = .idle ∧
        t.life.cycleCounter = s.life.cycleCounter)) ∧
  (∀ s t : State, s.eng.phase ≠ .idle → s.eng.phase ≠ .notify → engineStep s = .next t →
    (s.eng.phase ≠ .hold → t.eng.phase ≠ .idle) ∧
    (t.eng.phase ≠ .idle → t.ports = s.ports ∧ t.life = s.life)) ∧
  (∀ s t : State, Inv s → step s = .next t → currentTurn s ≠ .setReset true → s.eng.phase ≠ .idle →
    (s.eng.phase ≠ .notify →
      (s.eng.phase ≠ .hold → t.eng.phase ≠ .idle ∧ t.life = s.life) ∧
      (t.eng.phase ≠ .idle → t.ports = s.ports)) ∧
    (s.eng.phase = .notify → t.life = s.life ∧ ∀ p,
      { t.port p with
        tag := (s.port p).tag, lastServicedCounter := (s.port p).lastServicedCounter } = s.port p))

/-! ### Lifecycle commands (40_lifecycle.md) -/

/-- R110, R112: INIT starts the block; a sink-open failure completes with OK and is finalized at once; INIT while
INITIALIZED is turned away. -/
def Obligations.InitFollowsItsRule : Prop :=
  ∀ s : State,
    (s.life.initialized = true →
      exec .init s = .next { s with regs := { s.regs with status := .alreadyInit, busy := false } }) ∧
    (s.life.initialized = false →
      ∃ t, exec .init s = .next t ∧
        (s.inputs.sinkOk = true ∧ (s.regs.cfgOut.getLsbD 1 = true → s.inputs.captureOk = true) →
          t.life = { initialized := true, running := true, stopping := false, finalized := false
                     sinkFail := false, stopReq := false, quitPending := false, portsInUse := 0
                     cycleCounter := 0, startTimestamp := s.inputs.now } ∧
          t.out.sent = false) ∧
        (s.inputs.sinkOk = false ∨ (s.regs.cfgOut.getLsbD 1 = true ∧ s.inputs.captureOk = false) →
          t.life = { initialized := true, running := false, stopping := false, finalized := true
                     sinkFail := true, stopReq := false, quitPending := false, portsInUse := 0
                     cycleCounter := 0, startTimestamp := s.inputs.now } ∧
          t.out.sent = true) ∧
        t.ports = List.replicate s.par.portCount Port.zero ∧
        t.out.wslot = 0 ∧ t.out.wmix = 0 ∧ t.out.q = [] ∧
        t.eng = { s.eng with phase := .idle } ∧
        t.regs = { s.regs with status := .ok, busy := false } ∧
        CommandFrame s t)

/-- R114: QUIT before INIT is turned away; otherwise it is pending from then on, asks for a stop unless the block is
finalized, and holds; once the block is finalized and the sentinel is popped it ends the lifetime with OK. -/
def Obligations.QuitFollowsItsRule : Prop :=
  ∀ s : State,
    (s.life.initialized = false →
      exec .quit s = .next { s with regs := { s.regs with status := .notInit, busy := false } }) ∧
    (s.life.initialized = true → s.life.finalized = false →
      exec .quit s = .next { s with
        life := { s.life with quitPending := true, stopReq := true, stopping := true } }) ∧
    (s.life.initialized = true → s.life.finalized = true → s.out.sent = true →
      exec .quit s = .next { s with life := { s.life with quitPending := true } }) ∧
    (s.life.initialized = true → s.life.finalized = true → s.out.sent = false →
      exec .quit s = .next { s with
        life := { s.life with
          initialized := false, running := false, stopping := false, finalized := false
          stopReq := false, quitPending := false }
        regs := { s.regs with status := .ok, busy := false } })

/-! ### Port control commands (41_port_control.md) -/

/-- R130, R132: PORT_OPEN opens the lowest Closed port, after its checks in order; the premise is that the table holds
PORT_COUNT entries (R35).  The gain is stated for the init-level mask that R132 gives. -/
def Obligations.PortOpenFollowsItsRule : Prop :=
  ∀ s : State, s.ports.length = s.par.portCount →
    let ch := s.regs.cmdl.arg.a0
    let nb := s.regs.cmdl.arg.a1
    let operandsOk : Prop := (ch = 2 ∨ ch = 6 ∨ ch = 8) ∧ nb ≠ 0 ∧ nb.toNat ≤ 16
    let ends (c : Status) : Prop :=
      exec .portOpen s = .next { s with regs := { s.regs with status := c, busy := false } }
    (s.life.initialized = false → ends .notInit) ∧
    (s.life.initialized = true → ¬operandsOk → ends .param) ∧
    (s.life.initialized = true → operandsOk → (∀ i < s.par.portCount, (s.port i).opened = true) →
      ends .portFull) ∧
    (∀ i < s.par.portCount, s.life.initialized = true → operandsOk → (s.port i).opened = false →
      (∀ j < i, (s.port j).opened = true) →
      ∃ (t : State) (gain : F32), exec .portOpen s = .next t ∧
        (s.par.initlevelMask = 0x00001000#32 →
          gain = if s.regs.cmdl.arg.a2.getLsbD 12 then s.regs.cmdl.arg.a3 else 0x3F800000#32) ∧
        t.port i =
          { opened := true
            started := false
            channels := ch.setWidth 8
            blockCount := nb.setWidth 8
            attr := s.regs.cmdl.arg.a2
            gain := gain
            bufferBase := BitVec.ofNat 32
              ((s.regs.cfgRegionBase.toNat + i * s.par.regionStride) % 2 ^ s.par.addrWidth)
            readIndexAddress := BitVec.ofNat 32
              ((s.regs.cfgIndexBase.toNat + 8 * i) % 2 ^ s.par.addrWidth)
            tag := 0
            lastServicedCounter := 0 } ∧
        (∀ j, j ≠ i → t.port j = s.port j) ∧
        t.life = { s.life with portsInUse := s.life.portsInUse + 1 } ∧
        t.regs = { s.regs with
          status := .ok, busy := false, res := { s.regs.res with r0 := BitVec.ofNat 32 i } } ∧
        t.eng = s.eng ∧ t.out = s.out ∧ CommandFrame s t)

/-- R131: after PORT_CLOSE of port `k`, the next PORT_OPEN returns `k` if no lower port is closed. -/
def Obligations.ClosedPortIsReused : Prop :=
  ∀ (s : State) (k : Nat), s.par.portCount ≤ 256 → s.ports.length = s.par.portCount →
    s.life.initialized = true → k < s.par.portCount → (∀ j ≤ k, (s.port j).opened = true) →
    openOperandsOk s.regs.cmdl.arg.a0 s.regs.cmdl.arg.a1 = true →
    ∃ t u, exec (.portClose k) s = .next t ∧ exec .portOpen t = .next u ∧
      u.regs.status = .ok ∧ u.regs.res.r0.toNat = k ∧ (u.port k).opened = true ∧
      u.life.portsInUse = s.life.portsInUse

/-- R133, R134: PORT_CLOSE closes an Opened or a Started port. -/
def Obligations.PortCloseFollowsItsRule : Prop :=
  ∀ (s : State) (p : Nat),
    let ends (c : Status) : Prop :=
      exec (.portClose p) s = .next { s with regs := { s.regs with status := c, busy := false } }
    (s.life.initialized = false → ends .notInit) ∧
    (s.life.initialized = true → s.par.portCount ≤ p → ends .param) ∧
    (s.life.initialized = true → p < s.par.portCount → (s.port p).opened = false → ends .portNotOpen) ∧
    (s.life.initialized = true → p < s.par.portCount → (s.port p).opened = true →
      ∃ t, exec (.portClose p) s = .next t ∧
        t.port p = { s.port p with opened := false, started := false } ∧
        (∀ j, j ≠ p → t.port j = s.port j) ∧
        t.life = { s.life with portsInUse := s.life.portsInUse - 1 } ∧
        t.regs = { s.regs with status := .ok, busy := false } ∧
        t.eng = s.eng ∧ t.out = s.out ∧ CommandFrame s t)

/-- R135, R136: PORT_START starts a port that is Opened and not Started, and keeps its tag. -/
def Obligations.PortStartFollowsItsRule : Prop :=
  ∀ (s : State) (p : Nat),
    let ends (c : Status) : Prop :=
      exec (.portStart p) s = .next { s with regs := { s.regs with status := c, busy := false } }
    (s.life.initialized = false → ends .notInit) ∧
    (s.life.initialized = true → s.par.portCount ≤ p → ends .param) ∧
    (s.life.initialized = true → p < s.par.portCount → (s.port p).opened = false → ends .portNotOpen) ∧
    (s.life.initialized = true → p < s.par.portCount → (s.port p).opened = true →
      (s.port p).started = true → ends .portAlreadyRun) ∧
    (s.life.initialized = true → p < s.par.portCount → (s.port p).opened = true →
      (s.port p).started = false →
      ∃ t, exec (.portStart p) s = .next t ∧
        t.port p = { s.port p with started := true } ∧
        (∀ j, j ≠ p → t.port j = s.port j) ∧
        t.life = s.life ∧ t.regs = { s.regs with status := .ok, busy := false } ∧
        t.eng = s.eng ∧ t.out = s.out ∧ CommandFrame s t)

/-- R137: PORT_STOP stops a Started port. -/
def Obligations.PortStopFollowsItsRule : Prop :=
  ∀ (s : State) (p : Nat),
    let ends (c : Status) : Prop :=
      exec (.portStop p) s = .next { s with regs := { s.regs with status := c, busy := false } }
    (s.life.initialized = false → ends .notInit) ∧
    (s.life.initialized = true → s.par.portCount ≤ p → ends .param) ∧
    (s.life.initialized = true → p < s.par.portCount → (s.port p).opened = false → ends .portNotOpen) ∧
    (s.life.initialized = true → p < s.par.portCount → (s.port p).opened = true →
      (s.port p).started = false → ends .portNotRun) ∧
    (s.life.initialized = true → p < s.par.portCount → (s.port p).opened = true →
      (s.port p).started = true →
      ∃ t, exec (.portStop p) s = .next t ∧
        t.port p = { s.port p with started := false } ∧
        (∀ j, j ≠ p → t.port j = s.port j) ∧
        t.life = s.life ∧ t.regs = { s.regs with status := .ok, busy := false } ∧
        t.eng = s.eng ∧ t.out = s.out ∧ CommandFrame s t)

/-- R139: SET_PORT_LEVEL stores the latched ARG0, whatever its bits, as a Started port's gain. -/
def Obligations.SetPortLevelFollowsItsRule : Prop :=
  ∀ (s : State) (p : Nat),
    let ends (c : Status) : Prop :=
      exec (.setPortLevel p) s = .next { s with regs := { s.regs with status := c, busy := false } }
    (s.life.initialized = false → ends .notInit) ∧
    (s.life.initialized = true → s.par.portCount ≤ p → ends .param) ∧
    (s.life.initialized = true → p < s.par.portCount → (s.port p).opened = false → ends .portNotOpen) ∧
    (s.life.initialized = true → p < s.par.portCount → (s.port p).opened = true →
      (s.port p).started = false → ends .portNotRun) ∧
    (s.life.initialized = true → p < s.par.portCount → (s.port p).opened = true →
      (s.port p).started = true →
      ∃ t, exec (.setPortLevel p) s = .next t ∧
        t.port p = { s.port p with gain := s.regs.cmdl.arg.a0 } ∧
        (∀ j, j ≠ p → t.port j = s.port j) ∧
        t.life = s.life ∧ t.regs = { s.regs with status := .ok, busy := false } ∧
        t.eng = s.eng ∧ t.out = s.out ∧ CommandFrame s t)

/-- R145: ADD_DATA completes with ILLEGAL_CMD, in every state and for every port, and changes no other state. -/
def Obligations.AddDataIsRefused : Prop :=
  ∀ (s : State) (p : Nat),
    exec (.addData p) s = .next { s with regs := { s.regs with status := .illegalCmd, busy := false } }

/-! ### Queries (42_ring_address.md, 43_cadence.md) -/

/-- R155: GET_PORT_CONFIG reports the status, the sizes and the addresses of any port of the table; the size is
blockCount × channels × 256 × 4 (R153), a Closed port's addresses are those it would get (R150, R151). -/
def Obligations.GetPortConfigFollowsItsRule : Prop :=
  ∀ (s : State) (p : Nat),
    let ends (c : Status) : Prop :=
      exec (.getPortConfig p) s = .next { s with regs := { s.regs with status := c, busy := false } }
    let reports (r : Results) : Prop :=
      exec (.getPortConfig p) s =
        .next { s with regs := { s.regs with status := .ok, busy := false, res := r } }
    (s.life.initialized = false → ends .notInit) ∧
    (s.life.initialized = true → s.par.portCount ≤ p → ends .param) ∧
    (s.life.initialized = true → p < s.par.portCount → (s.port p).opened = false →
      reports
        { r0 := 0, r1 := 0, r2 := 0, r3 := 0
          r4 := BitVec.ofNat 32
            ((s.regs.cfgRegionBase.toNat + p * s.par.regionStride) % 2 ^ s.par.addrWidth)
          r5 := BitVec.ofNat 32 ((s.regs.cfgIndexBase.toNat + 8 * p) % 2 ^ s.par.addrWidth) }) ∧
    (s.life.initialized = true → p < s.par.portCount → (s.port p).opened = true →
      reports
        { r0 := if (s.port p).started = true then 2 else 1
          r1 := (s.port p).channels.setWidth 32
          r2 := (s.port p).blockCount.setWidth 32
          r3 := (s.port p).blockCount.setWidth 32 * (s.port p).channels.setWidth 32 * 1024#32
          r4 := (s.port p).bufferBase
          r5 := (s.port p).readIndexAddress })

/-- R180: GET_PORT_TIMESTAMP of a Started port, all arithmetic modulo 2^64. -/
def Obligations.GetPortTimestampFollowsItsRule : Prop :=
  ∀ (s : State) (p : Nat),
    let ends (c : Status) : Prop :=
      exec (.getPortTimestamp p) s =
        .next { s with regs := { s.regs with status := c, busy := false } }
    (s.life.initialized = false → ends .notInit) ∧
    (s.life.initialized = true → s.par.portCount ≤ p → ends .param) ∧
    (s.life.initialized = true → p < s.par.portCount → (s.port p).opened = false → ends .portNotOpen) ∧
    (s.life.initialized = true → p < s.par.portCount → (s.port p).opened = true →
      (s.port p).started = false → ends .portNotRun) ∧
    (s.life.initialized = true → p < s.par.portCount → (s.port p).opened = true →
      (s.port p).started = true →
      ∃ r0 r1 : Word,
        exec (.getPortTimestamp p) s = .next { s with
          regs := { s.regs with status := .ok, busy := false, res := { s.regs.res with r0 := r0, r1 := r1 } } } ∧
        ((r1 ++ r0 : BitVec 64).toNat : Int) =
          ((s.life.startTimestamp.toNat : Int) +
            ((s.port p).lastServicedCounter.toNat +
              (((s.regs.cmdl.arg.a1 ++ s.regs.cmdl.arg.a0 : BitVec 64).toNat : Int) -
                (s.port p).tag.toNat)) * s.par.cycleTicks) % 2 ^ 64)

/-- R158: GET_PORT_BLOCK_TAG, from the current round's base, one round later for a block that has passed. -/
def Obligations.GetPortBlockTagFollowsItsRule : Prop :=
  ∀ (s : State) (p : Nat),
    let ends (c : Status) : Prop :=
      exec (.getPortBlockTag p) s =
        .next { s with regs := { s.regs with status := c, busy := false } }
    let b := (s.regs.cmdl.arg.a1 ++ s.regs.cmdl.arg.a0 : BitVec 64).toNat
    let nb := (s.port p).blockCount.toNat
    let tag := (s.port p).tag.toNat
    (s.life.initialized = false → ends .notInit) ∧
    (s.life.initialized = true → s.par.portCount ≤ p → ends .param) ∧
    (s.life.initialized = true → p < s.par.portCount → (s.port p).opened = false → ends .portNotOpen) ∧
    (s.life.initialized = true → p < s.par.portCount → (s.port p).opened = true → nb ≤ b → ends .param) ∧
    (s.life.initialized = true → p < s.par.portCount → (s.port p).opened = true → b < nb →
      ∃ r0 r1 : Word,
        exec (.getPortBlockTag p) s = .next { s with
          regs := { s.regs with status := .ok, busy := false, res := { s.regs.res with r0 := r0, r1 := r1 } } } ∧
        (r1 ++ r0 : BitVec 64) =
          BitVec.ofNat 64 (tag - tag % nb + (if b < tag % nb then nb + b else b)))

/-- R159: GET_PORT_BLOCK_TAG returns the smallest tag from the current one on at which block `b` is read, provided that
`tag + blockCount` does not pass 2^64. -/
def Obligations.BlockTagIsTheNextOccurrence : Prop :=
  ∀ (s : State) (p : Nat),
    let b := (s.regs.cmdl.arg.a1 ++ s.regs.cmdl.arg.a0 : BitVec 64).toNat
    let nb := (s.port p).blockCount.toNat
    let tag := (s.port p).tag.toNat
    s.life.initialized = true → p < s.par.portCount → (s.port p).opened = true → b < nb →
    tag + nb ≤ 2 ^ 64 →
    ∃ t, exec (.getPortBlockTag p) s = .next t ∧ t.regs.status = .ok ∧
      let v := (t.regs.res.r1 ++ t.regs.res.r0 : BitVec 64).toNat
      v = tag + (b + nb - tag % nb) % nb ∧ tag ≤ v ∧ v % nb = b ∧
      ∀ u, tag ≤ u → u % nb = b → v ≤ u

/-! ### All commands -/

/-- R262: a command, or an illegal word, that ends with a status other than OK changes nothing but STATUS and BUSY. -/
def Obligations.FailedCommandChangesOnlyCmdstat : Prop :=
  ∀ (i : Instr) (s t : State), s.regs.busy = true → exec i s = .next t ∨ runCommand s = .next t →
    t.regs.busy = false → t.regs.status ≠ .ok →
    t = { s with regs := { s.regs with status := t.regs.status, busy := false } }

/-- Every command, in every state and with every operand, answers a next state: it never stops the machine.  No command
touches memory (R70), an ARG register (R27) or anything else of `CommandFrame`; it writes the result registers of its
row of R94 when it completes with OK, and none otherwise (R28). -/
def Obligations.CommandsTouchOnlyTheirState : Prop :=
  ∀ (i : Instr) (s : State), ∃ t, exec i s = .next t ∧ CommandFrame s t ∧
    (s.regs.busy = true → t.regs.busy = false → t.regs.status ≠ .ok → t.regs.res = s.regs.res) ∧
    (resWritten i ≤ 0 → t.regs.res.r0 = s.regs.res.r0) ∧
    (resWritten i ≤ 1 → t.regs.res.r1 = s.regs.res.r1) ∧
    (resWritten i ≤ 2 → t.regs.res.r2 = s.regs.res.r2 ∧ t.regs.res.r3 = s.regs.res.r3 ∧
      t.regs.res.r4 = s.regs.res.r4 ∧ t.regs.res.r5 = s.regs.res.r5)

/-! ### The cycle engine: cadence and stop (43_cadence.md, 40_lifecycle.md) -/

/-- R170, R176: an evaluation does nothing when no cycle is due; a due cycle is counted, and then skipped under PAUSE or
begun. -/
def Obligations.EvaluationFollowsItsRule : Prop :=
  ∀ s : State, AmxMoves s → s.regs.busy = false → s.life.running = true → s.eng.phase = .idle →
    s.life.stopReq = false → s.inputs.envStop = false →
    let elapsed := (s.inputs.now - s.life.startTimestamp).toNat
    let s0 : State := { s with turns := s.turns.tail, outputs := [] }
    (elapsed ≤ s.life.cycleCounter.toNat * s.par.cycleTicks → step s = .next s0) ∧
    (s.life.cycleCounter.toNat * s.par.cycleTicks < elapsed → s.inputs.pause = true →
      step s = .next { s0 with life := { s.life with cycleCounter := s.life.cycleCounter + 1 } }) ∧
    (s.life.cycleCounter.toNat * s.par.cycleTicks < elapsed → s.inputs.pause = false →
      step s = .next { s0 with
        life := { s.life with cycleCounter := s.life.cycleCounter + 1 }
        eng := { s.eng with
          phase := .mix, anyActive := false, mixPort := 0, mixBuf := [], mixZeroing := false, mixPos := 0 } })

/-- R114, R115, R116, R118: in IDLE or HOLD a requested stop, or ENV_STOP while RUNNING, finalizes; when the block is not
RUNNING, the engine takes no step, whatever ENV_STOP says.  That a stop is acted on in IDLE while the QUIT that asked for
it holds is the model's reading, log entry 30. -/
def Obligations.StopFinalizes : Prop :=
  (∀ s : State, s.life.running = false → s.eng.phase = .idle → engineStep s = .next s) ∧
  ∀ s : State, AmxMoves s → commandReady s = false → s.eng.phase = .idle ∨ s.eng.phase = .hold →
    s.life.running = true → s.life.stopReq = true ∨ s.inputs.envStop = true →
    ∃ t, step s = .next t ∧
      (∀ p, t.port p = { s.port p with opened := false, started := false }) ∧
      t.life = { s.life with
        portsInUse := 0, running := false, stopping := false, stopReq := false, finalized := true } ∧
      t.out = { s.out with wmix := 0, sent := true } ∧
      t.eng = { s.eng with phase := .idle } ∧
      t.regs = s.regs ∧ t.inputs = s.inputs ∧ t.outputs = [] ∧ t.draws = s.draws ∧
      ∀ a, memGet t.mem a = memGet s.mem a

/-! ### The mixer (44_mixer.md) -/

/-- The steps of MIX, run with no other agent between them, are R190's loop: the same next state, or the same stop.
(The split into steps is the model's, log entry 4.) -/
def Obligations.MixStepsAreTheLoop : Prop :=
  ∀ s : State, s.eng.phase = .mix → s.eng.mixPort = 0 → s.eng.mixBuf = [] → s.eng.mixZeroing = false →
    ∃ n, engineRun n s = mixWhole s

/-- R190, R192, R199: with a Started port's block in plain memory, MIX, run with no other agent between its steps,
mixes every frame of the block at the port's current position into the accumulators, makes every byte of that block
read 0, leaves every other byte alone, records that a port was mixed, and is at the next port (R195).  The premise on
memory is its canonical form, an invariant of the model. -/
def Obligations.MixTakesAStartedPort : Prop :=
  ∀ s : State, Memory.wf s.mem → s.eng.phase = .mix → s.eng.mixPort < s.par.portCount →
    (s.port s.eng.mixPort).started = true → s.eng.mixBuf = [] → s.eng.mixZeroing = false →
    let e := s.port s.eng.mixPort
    let ch := e.channels.toNat
    let space := 2 ^ s.par.addrWidth
    let block := (e.bufferBase.toNat + e.tag.toNat % e.blockCount.toNat * ch * 256 * 4) % space
    let byte (k j : Nat) : Nat := ((block + 4 * k) % space + j) % space
    (∀ k < ch * 256, ∀ j < 4, memKind s.memMap (byte k j) = some .plain) →
    ∃ n t, engineRun n s = .next t ∧
      (∀ f < 256,
        ((t.eng.acc2.getD f (0, 0), t.eng.acc8.getD f []) : Frame) =
          mixFrame s.par.mixK (!s.eng.anyActive) (s.draws + 32 * f) e.gain
            ((List.range ch).map fun c => ldF32 s.par s.mem ((block + 4 * (f * ch + c)) % space))
            (s.eng.acc2.getD f (0, 0), s.eng.acc8.getD f [])) ∧
      (∀ a, (∃ k < ch * 256, ∃ j < 4, a = byte k j) → memGet t.mem a = 0) ∧
      (∀ a, ¬(∃ k < ch * 256, ∃ j < 4, a = byte k j) → memGet t.mem a = memGet s.mem a) ∧
      t.eng.phase = .mix ∧ t.eng.anyActive = true ∧ t.eng.mixPort = s.eng.mixPort + 1 ∧
      t.eng.mixBuf = [] ∧ t.eng.mixZeroing = false ∧
      t.regs = s.regs ∧ t.life = s.life ∧ t.ports = s.ports ∧ t.out = s.out ∧ t.outputs = s.outputs

/-- R193, R194, R202, R203, R196, R197, R200: what one frame of 2, 6 or 8 channels gives after gain, as the first
active port, which writes the accumulators, and as a later one, which adds into them.  (`k` and the numbers after it
only number the draws of NaN results, log entry 9.) -/
def Obligations.FrameFormsFollowTheirRules : Prop :=
  ∀ (K g : F32) (k : Nat) (acc : Frame) (l r c f rl rr sl sr : F32),
    let L := fmul k l g
    let R := fmul (k + 1) r g
    let C := fmul (k + 2) c g
    let F := fmul (k + 3) f g
    let RL := fmul (k + 4) rl g
    let RR := fmul (k + 5) rr g
    let SL := fmul (k + 6) sl g
    let SR := fmul (k + 7) sr g
    let mid := fmul (k + 9) (fadd (k + 8) C F) K
    let L6 := fadd (k + 11) (fadd (k + 10) L RL) mid
    let R6 := fadd (k + 13) (fadd (k + 12) R RR) mid
    let L8 := fadd (k + 12) (fadd (k + 11) (fadd (k + 10) L RL) SL) mid
    let R8 := fadd (k + 15) (fadd (k + 14) (fadd (k + 13) R RR) SR) mid
    let a (n : Nat) : F32 := acc.2.getD n 0
    let add (n : Nat) (x : F32) : F32 := fadd (k + 18 + n) (a n) x
    let stereo (x y : F32) : F32 × F32 := (fadd (k + 16) acc.1.1 x, fadd (k + 17) acc.1.2 y)
    mixFrame K true k g [l, r] acc = ((L, R), [L, R, 0, 0, 0, 0, 0, 0]) ∧
    mixFrame K true k g [l, r, c, f, rl, rr] acc = ((L6, R6), [L, R, C, F, RL, RR, 0, 0]) ∧
    mixFrame K true k g [l, r, c, f, rl, rr, sl, sr] acc = ((L8, R8), [L, R, C, F, RL, RR, SL, SR]) ∧
    mixFrame K false k g [l, r] acc = (stereo L R, [add 0 L, add 1 R, a 2, a 3, a 4, a 5, a 6, a 7]) ∧
    mixFrame K false k g [l, r, c, f, rl, rr] acc =
      (stereo L6 R6, [add 0 L, add 1 R, add 2 C, add 3 F, add 4 RL, add 5 RR, a 6, a 7]) ∧
    mixFrame K false k g [l, r, c, f, rl, rr, sl, sr] acc =
      (stereo L8 R8,
        [add 0 L, add 1 R, add 2 C, add 3 F, add 4 RL, add 5 RR, add 6 SL, add 7 SR])

/-- R193: gain 1.0 leaves every non-NaN sample unchanged; gain 0.0 gives a zero for a finite sample and a NaN for an
infinite one; a NaN gain or sample gives a NaN. -/
def Obligations.GainCorners : Prop :=
  (∀ (k : Nat) (x : F32), f32IsNaN x = false → fmul k x 0x3F800000#32 = x) ∧
  (∀ (k : Nat) (x : F32), f32IsFinite x = true →
    fmul k x 0x00000000#32 = (if x.msb then 0x80000000#32 else 0x00000000#32)) ∧
  (∀ (k : Nat) (x : F32), f32IsInf x = true → f32IsNaN (fmul k x 0x00000000#32) = true) ∧
  (∀ (k : Nat) (x g : F32), f32IsNaN x = true ∨ f32IsNaN g = true → f32IsNaN (fmul k x g) = true)

/-- R204: one 6-channel port at gain 1.0 gives `L+RL+K*(C+LFE)` and `R+RR+K*(C+LFE)`, evaluated in binary32 in this
order. -/
def Obligations.DownmixProperty : Prop :=
  ∀ (K : F32) (k : Nat) (acc : Frame) (l r c f rl rr : F32),
    (∀ x ∈ [l, r, c, f, rl, rr], f32IsNaN x = false) →
    ∃ j : Fin 6 → Nat,
      (mixFrame K true k 0x3F800000#32 [l, r, c, f, rl, rr] acc).1 =
        (fadd (j 3) (fadd (j 2) l rl) (fmul (j 1) (fadd (j 0) c f) K),
         fadd (j 5) (fadd (j 4) r rr) (fmul (j 1) (fadd (j 0) c f) K))

/-- R10: the sum and the product of finite values are rounded to nearest, ties to even.  A finite result is such that no
finite binary32 value is nearer to the exact one, and where another is as near, the result's last bit is 0; the result
is finite exactly when the exact one is nearer to 0 than the midpoint between the largest finite value and 2^128, and is
the infinity of its sign otherwise.  An exact zero sum is +0.0 unless both operands are negative, and a product has the
operands' sign.  Magnitudes are in units of 2^-149, the exact product in units of 2^-298.  With an operand that is not
finite: a NaN gives a NaN; an infinity plus a finite value or an infinity of its sign is that infinity; infinities of
opposite signs add to a NaN; an infinity times a zero is a NaN, and times any other value the infinity of the operands'
sign. -/
def Obligations.ArithmeticRoundsToNearest : Prop :=
  (∀ (k : Nat) (a b : F32),
    (f32IsNaN a = true ∨ f32IsNaN b = true →
      f32IsNaN (fadd k a b) = true ∧ f32IsNaN (fmul k a b) = true) ∧
    (f32IsInf a = true → f32IsFinite b = true → fadd k a b = a ∧ fadd k b a = a) ∧
    (f32IsInf a = true → f32IsInf b = true → a.msb = b.msb → fadd k a b = a) ∧
    (f32IsInf a = true → f32IsInf b = true → a.msb ≠ b.msb → f32IsNaN (fadd k a b) = true) ∧
    (f32IsInf a = true → b = 0x00000000#32 ∨ b = 0x80000000#32 →
      f32IsNaN (fmul k a b) = true ∧ f32IsNaN (fmul k b a) = true) ∧
    (f32IsInf a = true → f32IsNaN b = false → b ≠ 0x00000000#32 → b ≠ 0x80000000#32 →
      let infinity : F32 := if a.msb = b.msb then 0x7F800000#32 else 0xFF800000#32
      fmul k a b = infinity ∧ fmul k b a = infinity)) ∧
  ∀ (k : Nat) (a b : F32), f32IsFinite a = true → f32IsFinite b = true →
    let limit : Int := (2 ^ 25 - 1) * 2 ^ 252
    let sum := f32Int a + f32Int b
    let product := f32Int a * f32Int b
    (f32IsFinite (fadd k a b) = true → ∀ c : F32, f32IsFinite c = true →
      |sum - f32Int (fadd k a b)| ≤ |sum - f32Int c| ∧
      (|sum - f32Int (fadd k a b)| = |sum - f32Int c| → f32Int c ≠ f32Int (fadd k a b) →
        (fadd k a b).getLsbD 0 = false)) ∧
    (f32IsFinite (fadd k a b) = true ↔ |sum| < limit) ∧
    (limit ≤ sum → fadd k a b = 0x7F800000#32) ∧ (sum ≤ -limit → fadd k a b = 0xFF800000#32) ∧
    (sum = 0 → fadd k a b = if a.msb && b.msb then 0x80000000#32 else 0x00000000#32) ∧
    (f32IsFinite (fmul k a b) = true → ∀ c : F32, f32IsFinite c = true →
      |product - f32Int (fmul k a b) * 2 ^ 149| ≤ |product - f32Int c * 2 ^ 149| ∧
      (|product - f32Int (fmul k a b) * 2 ^ 149| = |product - f32Int c * 2 ^ 149| →
        f32Int c ≠ f32Int (fmul k a b) → (fmul k a b).getLsbD 0 = false)) ∧
    (f32IsFinite (fmul k a b) = true ↔ |product| < limit * 2 ^ 149) ∧
    (limit * 2 ^ 149 ≤ product → fmul k a b = 0x7F800000#32) ∧
    (product ≤ -(limit * 2 ^ 149) → fmul k a b = 0xFF800000#32) ∧
    (fmul k a b).msb = (a.msb != b.msb)

/-- The NaN that a draw delivers is a NaN, and every NaN encoding is what some drawn bits deliver: the payload and the
sign are left open, as R10 leaves them (log entry 9). -/
def Obligations.NaNResultsAreAnyNaN : Prop :=
  (∀ bits : BitVec 32, f32IsNaN (nanFrom bits) = true) ∧
  (∀ v : F32, f32IsNaN v = true → ∃ bits : BitVec 32, nanFrom bits = v)

/-- R199, R79: once a block is mixed, each MIX step of the Started port zeroes the next sample of it, in ascending order,
and leaves every other byte of memory alone; when all are zeroed, MIX records that a port was mixed (R190) and goes on
to the next port (R195).  The premise on memory is its canonical form, an invariant of the model. -/
def Obligations.ZeroWritesTakeTheBlock : Prop :=
  ∀ s : State, Memory.wf s.mem → s.eng.phase = .mix → s.eng.mixPort < s.par.portCount →
    (s.port s.eng.mixPort).started = true → s.eng.mixZeroing = true →
    let e := s.port s.eng.mixPort
    let ch := e.channels.toNat
    let space := 2 ^ s.par.addrWidth
    let block := (e.bufferBase.toNat + e.tag.toNat % e.blockCount.toNat * ch * 256 * 4) % space
    let written (a : Nat) : Prop := ∃ j < 4, a = ((block + 4 * s.eng.mixPos) % space + j) % space
    (s.eng.mixPos < ch * 256 → ∃ t, engineStep s = .next t ∧
      (∀ a, written a → memGet t.mem a = 0) ∧
      (∀ a, ¬written a → memGet t.mem a = memGet s.mem a) ∧
      t.eng = { s.eng with mixPos := s.eng.mixPos + 1 } ∧
      t.regs = s.regs ∧ t.life = s.life ∧ t.ports = s.ports ∧ t.out = s.out ∧ t.outputs = s.outputs ∧
      t.draws = s.draws) ∧
    (ch * 256 ≤ s.eng.mixPos → engineStep s = .next { s with
      eng := { s.eng with
        mixZeroing := false, mixPos := 0, anyActive := true, mixPort := s.eng.mixPort + 1 } })

/-- R198, R215: a cycle in which no port is Started mixes to silence: MIX ends with every accumulator element +0.0 and
no memory touched, and each element converts to the sample 0 in either format. -/
def Obligations.IdleCycleIsSilent : Prop :=
  ∀ s : State, s.par.wf → s.eng.phase = .mix → s.eng.mixPort = 0 → s.eng.anyActive = false →
     (∀ i < s.par.portCount, (s.port i).started = false) →
    ∃ n t, engineRun n s = .next t ∧ t.eng.phase = .convert ∧
      (∀ f < 256, t.eng.acc2.getD f (0, 0) = (0, 0) ∧
        t.eng.acc8.getD f [] = [0, 0, 0, 0, 0, 0, 0, 0]) ∧
      (∀ a, memGet t.mem a = memGet s.mem a) ∧
      ∀ x ∈ convertedMix t, x = (if s.regs.cfgOut.getLsbD 0 then Sample.float 0 else Sample.pcm16 0)

/-- R76, R77, R192, R240: the next sample read of MIX, and the read-index write of NOTIFY, go on exactly when the
platform backs the bytes of that access with plain memory.  The read then delivers the sample that memory holds at that
moment (R78), each of its bytes from the address that MEM_BIG_ENDIAN says (R72), and changes nothing else; the write then
publishes the read position.  Where the access does not go on,
the engine is stuck, or refused, at one of its bytes (log entries 7 and 8), after all that R240 puts before the access:
the advance of the port's entry is a step of its own, which never stops. -/
def Obligations.ReadsStopAtForbiddenMemory : Prop :=
  (∀ s : State, s.eng.phase = .mix → s.eng.mixPort < s.par.portCount →
    (s.port s.eng.mixPort).started = true → s.eng.mixZeroing = false →
    let e := s.port s.eng.mixPort
    let space := 2 ^ s.par.addrWidth
    let sample := (blockAddress s.par e + 4 * s.eng.mixBuf.length) % space
    let byte (j : Nat) : Nat := (sample + j) % space
    s.eng.mixBuf.length < e.channels.toNat * 256 →
    ((∃ t, engineStep s = .next t) ↔ ∀ j < 4, memKind s.memMap (byte j) = some .plain) ∧
    (∀ t, engineStep s = .next t →
      t = { s with eng := { s.eng with mixBuf := s.eng.mixBuf ++ [ldF32 s.par s.mem sample] } }) ∧
    (∀ j < 4, (ldF32 s.par s.mem sample).extractLsb' (8 * if s.par.memBigEndian then 3 - j else j) 8 =
      memGet s.mem (byte j)) ∧
    (∀ a, engineStep s = .fault (.memoryUnbacked a) → memKind s.memMap a = none ∧ ∃ j < 4, a = byte j) ∧
    (∀ a, engineStep s = .refused (.sideEffectMemory a) →
      memKind s.memMap a = some .device ∧ ∃ j < 4, a = byte j)) ∧
  (∀ s : State, s.eng.phase = .notify → s.eng.notifyAt < s.par.portCount →
    (s.port s.eng.notifyAt).started = true →
    let e := s.port s.eng.notifyAt
    let byte (j : Nat) : Nat := (e.readIndexAddress.toNat + j) % 2 ^ s.par.addrWidth
    (s.eng.notifyWord = none → engineStep s = .next { s with
      ports := s.ports.set s.eng.notifyAt
        { e with lastServicedCounter := s.life.cycleCounter, tag := e.tag + 1 }
      eng := { s.eng with
        notifyWord := some ((e.tag.toNat % e.blockCount.toNat + 1) % e.blockCount.toNat) } }) ∧
    (∀ np, s.eng.notifyWord = some np →
      ((∃ t, engineStep s = .next t) ↔ ∀ j < 8, memKind s.memMap (byte j) = some .plain) ∧
      (∀ t, engineStep s = .next t → t = { s with
        mem := memWrite s.par s.mem e.readIndexAddress.toNat 8 np
        eng := { s.eng with notifyWord := none, notifyAt := s.eng.notifyAt + 1 } }) ∧
      (∀ a, engineStep s = .fault (.memoryUnbacked a) → memKind s.memMap a = none ∧ ∃ j < 8, a = byte j) ∧
      (∀ a, engineStep s = .refused (.sideEffectMemory a) →
        memKind s.memMap a = some .device ∧ ∃ j < 8, a = byte j)))

/-! ### Conversion, slots and the queue (45_format_output.md) -/

/-- R212: conv16 at the scale 32768.0: a finite input gives the nearest integer to `x × 32768`, ties to even,
saturated; an infinity saturates; a NaN gives the draw (log entry 10).  `f32Int x` is `x` in units of 2^-149. -/
def Obligations.Conv16RoundsAndSaturates : Prop :=
  ∀ (p : Params) (k : Nat) (x : F32), p.pcm16Scale = 0x47000000#32 →
    p.pcm16Min = -32768 ∨ p.pcm16Min = -32767 →
    (f32IsFinite x = true →
      ∃ n : Int,
        |2 * (f32Int x * 2 ^ 15 - n * 2 ^ 149)| ≤ 2 ^ 149 ∧
        (|2 * (f32Int x * 2 ^ 15 - n * 2 ^ 149)| = 2 ^ 149 → n % 2 = 0) ∧
        (conv16 p k x).toInt = sat p.pcm16Min 32767 n) ∧
    (f32IsInf x = true → (conv16 p k x).toInt = if x.msb then p.pcm16Min else 32767) ∧
    (f32IsNaN x = true → conv16 p k x = Config.freePcm16 k)

/-- R214: every input `x` with `x × 32768 > 32766.5` converts to 32767, +2.0 among them; 32766.5 itself rounds to the
even 32766. -/
def Obligations.ClippingProperty : Prop :=
  ∀ (p : Params) (k : Nat) (x : F32), p.pcm16Scale = 0x47000000#32 →
    p.pcm16Min = -32768 ∨ p.pcm16Min = -32767 →
    (f32IsFinite x = true → 65533 * 2 ^ 148 < f32Int x * 2 ^ 15 → conv16 p k x = 0x7FFF#16) ∧
    (f32IsFinite x = true → f32Int x * 2 ^ 15 = 65533 * 2 ^ 148 → conv16 p k x = 0x7FFE#16) ∧
    conv16 p k 0x7F800000#32 = 0x7FFF#16 ∧ conv16 p k 0x40000000#32 = 0x7FFF#16

/-- R211, R213, R216: CONVERT appends the cycle's 256 stereo frames to slot WSLOT at the running offset, left first,
and touches no other sample; at the slot's capacity it pushes the slot and goes on to the next one; it enters HOLD
instead when it would begin a slot while 32 are queued.  The premise is the output path's invariant. -/
def Obligations.ConvertAppends : Prop :=
  ∀ s : State, OutInv s → s.eng.phase = .convert →
    (s.out.wmix = 0 ∧ s.out.q.length = 32 →
      engineStep s = .next { s with eng := { s.eng with phase := .hold } }) ∧
    (¬(s.out.wmix = 0 ∧ s.out.q.length = 32) → ∃ t, engineStep s = .next t ∧
      (∀ f < 256,
        let at_ := 2 * (s.out.wmix * 256 + f)
        let slot := t.out.slots.getD s.out.wslot.val []
        let a := s.eng.acc2.getD f (0, 0)
        (s.regs.cfgOut.getLsbD 0 = true →
          slot.getD at_ (.pcm16 0) = .float a.1 ∧ slot.getD (at_ + 1) (.pcm16 0) = .float a.2) ∧
        (s.regs.cfgOut.getLsbD 0 = false →
          slot.getD at_ (.pcm16 0) = .pcm16 (conv16 s.par (s.draws + 2 * f) a.1) ∧
          slot.getD (at_ + 1) (.pcm16 0) = .pcm16 (conv16 s.par (s.draws + 2 * f + 1) a.2))) ∧
      (∀ n, n < 512 * s.out.wmix ∨ 512 * s.out.wmix + 512 ≤ n →
        (t.out.slots.getD s.out.wslot.val []).getD n (.pcm16 0) =
          (s.out.slots.getD s.out.wslot.val []).getD n (.pcm16 0)) ∧
      (∀ j : Fin 32, j ≠ s.out.wslot → t.out.slots.getD j.val [] = s.out.slots.getD j.val []) ∧
      (s.out.wmix + 1 ≠ s.par.slotMixes →
        t.out.wmix = s.out.wmix + 1 ∧ t.out.wslot = s.out.wslot ∧ t.out.q = s.out.q) ∧
      (s.out.wmix + 1 = s.par.slotMixes →
        t.out.wmix = 0 ∧ t.out.wslot.val = (s.out.wslot.val + 1) % 32 ∧
        t.out.q = s.out.q ++ [s.out.wslot]) ∧
      t.out.sent = s.out.sent ∧
      t.eng = { s.eng with phase := .notify, notifyAt := 0, notifyWord := none } ∧
      t.regs = s.regs ∧ t.life = s.life ∧ t.ports = s.ports ∧ t.outputs = s.outputs ∧
      ∀ a, memGet t.mem a = memGet s.mem a)

/-- R220: CONVERT enters HOLD when it would start a slot while all 32 are queued, and nothing else changes; in HOLD the
engine holds while the queue is full and no stop is asked for, and goes back to CONVERT when a slot is free. -/
def Obligations.HoldFollowsItsRule : Prop :=
  ∀ s : State,
    (s.eng.phase = .convert → s.out.wmix = 0 → 32 ≤ s.out.q.length →
      engineStep s = .next { s with eng := { s.eng with phase := .hold } }) ∧
    (s.eng.phase = .hold → s.life.stopReq = false → s.inputs.envStop = false → 32 ≤ s.out.q.length →
      engineStep s = .next s) ∧
    (s.eng.phase = .hold → s.life.stopReq = false → s.inputs.envStop = false → s.out.q.length < 32 →
      engineStep s = .next { s with eng := { s.eng with phase := .convert } })

/-- R217: a pop takes the oldest queued slot and delivers it with the output format; only behind the last slot does it
deliver the sentinel; with nothing to deliver it delivers nothing, and the consumer waits (log entry 16). -/
def Obligations.PopDeliversInOrder : Prop :=
  ∀ s : State, currentTurn s = .pop →
    let s0 : State := { s with turns := s.turns.tail }
    (∀ j rest, s.out.q = j :: rest →
      step s = .next { s0 with
        out := { s.out with q := rest }
        outputs := [.slot (s.regs.cfgOut.getLsbD 0) (s.out.slots.getD j.val [])]
        waiting := false }) ∧
    (s.out.q = [] → s.out.sent = true →
      step s = .next { s0 with
        out := { s.out with sent := false }, outputs := [.sentinel], waiting := false }) ∧
    (s.out.q = [] → s.out.sent = false → step s = .next { s0 with outputs := [], waiting := true })

/-- R218: a slot of int16 samples serialises to two bytes a sample, one of binary32 samples to four, in little-endian
order when OUT_BIG_ENDIAN = 0 (R219). -/
def Obligations.SlotBytesAreSerialised : Prop :=
  ∀ (p : Params), p.outBigEndian = false →
    (∀ v : BitVec 16, sampleBytes p (.pcm16 v) = [v.extractLsb' 0 8, v.extractLsb' 8 8]) ∧
    (∀ v : F32, sampleBytes p (.float v) =
      [v.extractLsb' 0 8, v.extractLsb' 8 8, v.extractLsb' 16 8, v.extractLsb' 24 8]) ∧
    (∀ vs : List (BitVec 16), (slotBytes p (vs.map .pcm16)).length = 2 * vs.length) ∧
    (∀ vs : List F32, (slotBytes p (vs.map .float)).length = 4 * vs.length)

/-- R221: under the invariant a slot that is being filled is not in the queue and the queue holds no slot twice, and no
step but a hardware reset changes a sample of a queued slot. -/
def Obligations.QueuedSlotsAreOwnedByTheConsumer : Prop :=
  ∀ s : State, Inv s →
    (0 < s.out.wmix → s.out.wslot ∉ s.out.q) ∧ s.out.q.Nodup ∧
    (∀ t, step s = .next t → currentTurn s ≠ .setReset true →
      ∀ j ∈ s.out.q, t.out.slots.getD j.val [] = s.out.slots.getD j.val [])

/-! ### Notification (46_notify.md) -/

/-- R240, R241, R244, R246, R247: NOTIFY, run from its beginning with no other agent between its steps, advances every
Started port, publishes its next read position at its read-index word, most significant byte first when
MEM_BIG_ENDIAN = 1 and least significant byte first when it is 0 (R72), leaves every other byte alone, and presents the
cycle-done event and, when CAPTURE_EN = 1, the raw-capture event after it.  The premises: the memory is canonical, and
the read-index words of the Started ports lie in plain memory and do not overlap (R302), and the Started ports have
blocks (R36, an invariant of the model).  (The split into steps is the model's, log entry 4.) -/
def Obligations.NotifyAdvancesMixedPorts : Prop :=
  ∀ s : State, Memory.wf s.mem → s.ports.length = s.par.portCount → s.eng.phase = .notify →
    s.eng.notifyAt = 0 → s.eng.notifyWord = none →
    let mixed (i : Nat) : Prop := i < s.par.portCount ∧ (s.port i).started = true
    let word (i : Nat) : Nat := (s.port i).readIndexAddress.toNat
    (∀ i, mixed i → 1 ≤ (s.port i).blockCount.toNat ∧ word i + 8 ≤ 2 ^ s.par.addrWidth ∧
      ∀ j < 8, memKind s.memMap (word i + j) = some .plain) →
    (∀ i j, mixed i → mixed j → i ≠ j → word i + 8 ≤ word j ∨ word j + 8 ≤ word i) →
    ∃ n t, engineRun n s = .next t ∧
      (∀ i, mixed i → t.port i =
        { s.port i with lastServicedCounter := s.life.cycleCounter, tag := (s.port i).tag + 1 }) ∧
      (∀ i, ¬mixed i → t.port i = s.port i) ∧
      (∀ i, mixed i → memRead s.par t.mem (word i) 8 =
        ((s.port i).tag.toNat % (s.port i).blockCount.toNat + 1) % (s.port i).blockCount.toNat) ∧
      (∀ i, mixed i → ∀ j < 8, memGet t.mem (word i + j) =
        BitVec.ofNat 8
          (((s.port i).tag.toNat % (s.port i).blockCount.toNat + 1) % (s.port i).blockCount.toNat /
            2 ^ (8 * if s.par.memBigEndian then 7 - j else j))) ∧
      (∀ a, (∀ i, mixed i → a < word i ∨ word i + 8 ≤ a) → memGet t.mem a = memGet s.mem a) ∧
      t.outputs = s.outputs ++ .cycleDone s.life.cycleCounter ::
        (if s.regs.cfgOut.getLsbD 1 then [.rawCapture s.eng.acc8.flatten] else []) ∧
      t.eng = { s.eng with phase := .idle } ∧ t.regs = s.regs ∧ t.life = s.life ∧ t.out = s.out ∧
      t.draws = s.draws

/-- R154, R161: after the tag advance of NOTIFY the position is the next position, except when the tag wraps at 2^64
and blockCount does not divide 2^64: there the position jumps. -/
def Obligations.PositionFollowsTheTag : Prop :=
  ∀ (s : State) (e : Port), 1 ≤ e.blockCount.toNat →
    (position (notifiedPort s e) = nextPosition e ↔
      (e.tag.toNat + 1 < 2 ^ 64 ∨ e.blockCount.toNat ∣ 2 ^ 64))

/-- R244, R246, R247: the step that ends NOTIFY presents the cycle-done event with the cycle's number and, when
CAPTURE_EN = 1, then one raw-capture event of 2048 values, frame-major: value `8 f + c` is ACC8[f][c], and bytes
`4 i` to `4 i + 3` of its serialised form are value `i`, least significant first; it returns to IDLE and changes nothing
else.  The premise is the engine's invariant. -/
def Obligations.RawCaptureIsFrameMajor : Prop :=
  ∀ s : State, EngineInv s → s.eng.phase = .notify → s.par.portCount ≤ s.eng.notifyAt →
    ∃ events, engineStep s = .next { s with
        outputs := s.outputs ++ .cycleDone s.life.cycleCounter :: events
        eng := { s.eng with phase := .idle, notifyAt := 0, notifyWord := none } } ∧
      (s.regs.cfgOut.getLsbD 1 = false → events = []) ∧
      (s.regs.cfgOut.getLsbD 1 = true → ∃ samples, events = [.rawCapture samples] ∧
        samples.length = 2048 ∧
        (∀ f < 256, ∀ c < 8, samples.getD (8 * f + c) 0 = (s.eng.acc8.getD f []).getD c 0) ∧
        (captureBytes samples).length = 8192 ∧
        ∀ i < 2048, ∀ k < 4,
          (captureBytes samples).getD (4 * i + k) 0 = (samples.getD i 0).extractLsb' (8 * k) 8)

/-! ### The register window (10_state.md, 20_memory.md) -/

/-- R23: a CMD write is accepted while BUSY = 0: the word and the four ARG registers are latched; while BUSY = 1 it is
dropped and sets OVERRUN; a read of CMD returns the latched word. -/
def Obligations.CmdWriteFollowsItsRule : Prop :=
  ∀ s : State, s.inputs.resetIn = false →
    let s0 (v : Word) : State := { s with turns := s.turns.tail, outputs := [.bus false v] }
    (∀ w : Word, currentTurn s = .hostWrite 0x00 32 w → s.regs.busy = false →
      step s = .next { s0 0 with regs := { s.regs with cmdl := ⟨w, s.regs.args⟩, busy := true } }) ∧
    (∀ w : Word, currentTurn s = .hostWrite 0x00 32 w → s.regs.busy = true →
      step s = .next { s0 0 with regs := { s.regs with overrun := true } }) ∧
    (currentTurn s = .hostRead 0x00 32 → step s = .next (s0 s.regs.cmdl.word))

/-- R22, R80, R81: an access that is not 32 bits wide, not aligned, or at an offset no register occupies is answered
with an error (a read with 0) and changes nothing. -/
def Obligations.BusErrorsChangeNothing : Prop :=
  ∀ (s : State) (off : BitVec 8) (width : Nat) (v : Word), s.inputs.resetIn = false →
    (width ≠ 32 ∨
      off ∉ ([0x00, 0x04, 0x08, 0x0C, 0x10, 0x14, 0x18, 0x1C, 0x20, 0x24, 0x28, 0x2C, 0x30, 0x34, 0x40, 0x44,
        0x48, 0x50, 0x54, 0x58, 0x5C, 0x60] : List (BitVec 8))) →
    currentTurn s = .hostRead off width ∨ currentTurn s = .hostWrite off width v →
    step s = .next { s with turns := s.turns.tail, outputs := [.bus true 0] }

/-- R22–R28, R30–R34, R80: what a 32-bit read of each register returns; it changes nothing, except that CYCLE_LO and
START_TS_LO copy the high half into its shadow (R34). -/
def Obligations.RegisterReadsFollowTheMap : Prop :=
  ∀ (s : State) (off : BitVec 8), currentTurn s = .hostRead off 32 → s.inputs.resetIn = false →
    let returns (v : Word) : Prop := step s = .next { s with turns := s.turns.tail, outputs := [.bus false v] }
    (off = 0x00 → returns s.regs.cmdl.word) ∧
    (off = 0x04 → returns (cmdstatWord s)) ∧
    (off = 0x08 → returns (gstateWord s)) ∧
    (off = 0x0C → returns (s.life.portsInUse.setWidth 32)) ∧
    (off = 0x10 → returns s.regs.args.a0) ∧ (off = 0x14 → returns s.regs.args.a1) ∧
    (off = 0x18 → returns s.regs.args.a2) ∧ (off = 0x1C → returns s.regs.args.a3) ∧
    (off = 0x20 → returns s.regs.res.r0) ∧ (off = 0x24 → returns s.regs.res.r1) ∧
    (off = 0x28 → returns s.regs.res.r2) ∧ (off = 0x2C → returns s.regs.res.r3) ∧
    (off = 0x30 → returns s.regs.res.r4) ∧ (off = 0x34 → returns s.regs.res.r5) ∧
    (off = 0x40 → returns s.regs.cfgRegionBase) ∧ (off = 0x44 → returns s.regs.cfgIndexBase) ∧
    (off = 0x48 → returns s.regs.cfgOut) ∧
    (off = 0x50 → step s = .next { s with
      turns := s.turns.tail
      outputs := [.bus false (s.life.cycleCounter.extractLsb' 0 32)]
      regs := { s.regs with cycleHi := s.life.cycleCounter.extractLsb' 32 32 } }) ∧
    (off = 0x54 → returns s.regs.cycleHi) ∧
    (off = 0x58 → step s = .next { s with
      turns := s.turns.tail
      outputs := [.bus false (s.life.startTimestamp.extractLsb' 0 32)]
      regs := { s.regs with startTsHi := s.life.startTimestamp.extractLsb' 32 32 } }) ∧
    (off = 0x5C → returns s.regs.startTsHi) ∧
    (off = 0x60 → returns (qstatWord s))

/-- R24, R25, R33, R260: the fields of CMDSTAT, GSTATE and QSTAT, bit by bit; the other bits read 0.  The premise bounds
the queue and WMIX as the invariant does. -/
def Obligations.StatusWordsShowTheirFields : Prop :=
  ∀ s : State, s.out.q.length ≤ 32 → s.out.wmix < 256 →
    ((cmdstatWord s).extractLsb' 0 8).toNat =
      (match s.regs.status with
        | .ok => 0x00 | .alreadyInit => 0x01 | .notInit => 0x02 | .param => 0x03 | .portFull => 0x04
        | .portOpen => 0x05 | .portNotOpen => 0x06 | .portAlreadyRun => 0x07 | .portNotRun => 0x08
        | .eventQueue => 0x09 | .illegalCmd => 0x0A) ∧
    (cmdstatWord s).getLsbD 8 = s.regs.busy ∧ (cmdstatWord s).getLsbD 9 = s.regs.overrun ∧
    (cmdstatWord s).extractLsb' 10 22 = 0 ∧
    (gstateWord s).getLsbD 0 = s.life.initialized ∧ (gstateWord s).getLsbD 1 = s.life.running ∧
    (gstateWord s).getLsbD 2 = s.life.stopping ∧ (gstateWord s).getLsbD 3 = s.life.finalized ∧
    (gstateWord s).getLsbD 4 = s.inputs.pause ∧ (gstateWord s).getLsbD 5 = s.life.sinkFail ∧
    ((gstateWord s).getLsbD 6 = true ↔ s.eng.phase = .hold) ∧ (gstateWord s).extractLsb' 7 25 = 0 ∧
    ((qstatWord s).extractLsb' 0 6).toNat = s.out.q.length ∧
    ((qstatWord s).extractLsb' 8 5).toNat = s.out.wslot.val ∧
    ((qstatWord s).extractLsb' 16 8).toNat = s.out.wmix ∧
    (qstatWord s).getLsbD 28 = s.out.sent ∧
    qstatWord s &&& 0xEF00E0C0#32 = 0

/-- R22, R24, R27, R30, R31, R32, R80: what a 32-bit write does at each register other than CMD: CMDSTAT clears OVERRUN
by bit 9; ARG registers take the word; the CFG registers take their bits while INITIALIZED = 0 and ignore the write
after; a write to a read-only register is ignored. -/
def Obligations.RegisterWritesFollowTheMap : Prop :=
  ∀ (s : State) (off : BitVec 8) (v : Word), currentTurn s = .hostWrite off 32 v → s.inputs.resetIn = false →
    let leaves (r : Regs) : Prop :=
      step s = .next { s with turns := s.turns.tail, outputs := [.bus false 0], regs := r }
    (off = 0x04 → leaves { s.regs with overrun := if v.getLsbD 9 then false else s.regs.overrun }) ∧
    (off = 0x10 → leaves { s.regs with args := { s.regs.args with a0 := v } }) ∧
    (off = 0x14 → leaves { s.regs with args := { s.regs.args with a1 := v } }) ∧
    (off = 0x18 → leaves { s.regs with args := { s.regs.args with a2 := v } }) ∧
    (off = 0x1C → leaves { s.regs with args := { s.regs.args with a3 := v } }) ∧
    (s.life.initialized = false →
      (off = 0x40 → leaves { s.regs with cfgRegionBase := v.extractLsb' 2 30 ++ 0#2 }) ∧
      (off = 0x44 → leaves { s.regs with cfgIndexBase := v.extractLsb' 3 29 ++ 0#3 }) ∧
      (off = 0x48 → leaves { s.regs with cfgOut := (v.extractLsb' 0 2).setWidth 32 })) ∧
    (s.life.initialized = true → off ∈ ([0x40, 0x44, 0x48] : List (BitVec 8)) → leaves s.regs) ∧
    (off ∈ ([0x08, 0x0C, 0x20, 0x24, 0x28, 0x2C, 0x30, 0x34, 0x50, 0x54, 0x58, 0x5C, 0x60] : List (BitVec 8)) →
      leaves s.regs)

/-! ### Reset (70_reset_and_hazards.md) -/

/-- R45, R290: asserting the reset input, from any state, puts AMX's state at its reset values and emits nothing; while
it is asserted AMX takes no step and answers no register access.  (The accumulators and the slot contents, which R45
leaves unspecified, are not named here; what is not AMX's own stays, log entry 19.) -/
def Obligations.HardResetFollowsItsRule : Prop :=
  ∀ s : State,
    (currentTurn s = .setReset true →
      ∃ t, step s = .next t ∧
        t.regs =
          { cmdl := ⟨0, ⟨0, 0, 0, 0⟩⟩, status := .ok, busy := false, overrun := false
            args := ⟨0, 0, 0, 0⟩, res := ⟨0, 0, 0, 0, 0, 0⟩
            cfgRegionBase := 0, cfgIndexBase := 0, cfgOut := 0, cycleHi := 0, startTsHi := 0 } ∧
        t.life =
          { initialized := false, running := false, stopping := false, finalized := false
            sinkFail := false, stopReq := false, quitPending := false, portsInUse := 0
            cycleCounter := 0, startTimestamp := 0 } ∧
        t.ports = List.replicate s.par.portCount Port.zero ∧
        t.eng.phase = .idle ∧ t.eng.anyActive = false ∧
        t.out.wslot = 0 ∧ t.out.wmix = 0 ∧ t.out.q = [] ∧ t.out.sent = false ∧ t.outputs = [] ∧
        t.inputs = { s.inputs with resetIn := true } ∧ ∀ a, memGet t.mem a = memGet s.mem a) ∧
    (s.inputs.resetIn = true →
      (currentTurn s = .amx ∨ (∃ off w, currentTurn s = .hostRead off w) ∨
        ∃ off w v, currentTurn s = .hostWrite off w v) →
      step s = .next { s with turns := s.turns.tail, outputs := [] })

/-- The reset state meets the invariant.  (The values R45 leaves open are the model's, log entries 1, 2, 5, 6 and
13.) -/
def Obligations.ResetMeetsInv : Prop := Inv State.reset

/-! ### The whole machine -/

/-- Every step, of whichever agent, keeps the invariant (R25, R26, R36, R70, R74, R121, R221, R261). -/
def Obligations.StepKeepsInv : Prop := ∀ s t : State, Inv s → step s = .next t → Inv t

/-- With plain memory behind the whole address space the machine never stops, whatever the agents do. -/
def Obligations.FullyBackedNeverStops : Prop := ∀ s : State, FullyBacked s → NeverStops s

/-- R25, R112, R114, R116, R118, R121: under the invariant GSTATE takes only the lifecycle's values (PAUSED and HOLD
apart), and HOLD only with RUNNING; and a step moves from one to another only as R121 says.  Apart from a hardware
reset: INITIALIZED is set by INIT and cleared by a completing QUIT; RUNNING is set by INIT and cleared by finalize();
STOPPING is set by QUIT while RUNNING and cleared by finalize() (an ENV_STOP is acted on in the step that samples it,
R118); FINALIZED is set by finalize() and by a failed INIT, stays until QUIT completes, and is never followed by RUNNING
in its lifetime; SINK_FAIL is written by INIT alone, as SINK_OK, CAPTURE_EN and CAPTURE_OK say. -/
def Obligations.LifecycleFollowsItsStates : Prop :=
  ∀ s : State, Inv s →
    gstateWord s &&& 0x2F#32 ∈ ([0x00, 0x20, 0x03, 0x07, 0x09, 0x29] : List Word) ∧
    (gstateWord s &&& 0x40#32 ≠ 0 → gstateWord s &&& 0x02#32 ≠ 0) ∧
    (∀ t, step s = .next t → currentTurn s ≠ .setReset true →
      let initRuns : Prop :=
        CommandRuns s ∧ decode s.regs.cmdl.word = .command .init ∧ s.life.initialized = false
      let stopActs : Prop :=
        AmxMoves s ∧ (s.eng.phase = .idle ∨ s.eng.phase = .hold) ∧ s.life.running = true ∧
          (s.life.stopReq = true ∨ s.inputs.envStop = true) ∧ t.life.running = false ∧
          t.life.stopping = false ∧ t.life.finalized = true ∧ t.out.sent = true
      let failed : Prop :=
        s.inputs.sinkOk = false ∨ (s.regs.cfgOut.getLsbD 1 = true ∧ s.inputs.captureOk = false)
      (s.life.initialized = false → t.life.initialized = true → initRuns) ∧
      (s.life.initialized = true → t.life.initialized = false →
        AmxMoves s ∧ decode s.regs.cmdl.word = .command .quit ∧ s.life.finalized = true ∧
          s.out.sent = false) ∧
      (s.life.running = false → t.life.running = true → initRuns ∧ ¬failed) ∧
      (s.life.running = true → t.life.running = false → stopActs) ∧
      (s.life.stopping = false → t.life.stopping = true →
        AmxMoves s ∧ s.regs.busy = true ∧ decode s.regs.cmdl.word = .command .quit ∧
          s.life.running = true ∧ t.life.running = true) ∧
      (s.life.stopping = true → t.life.stopping = false → stopActs) ∧
      (s.life.finalized = false → t.life.finalized = true → stopActs ∨ (initRuns ∧ failed)) ∧
      (s.life.finalized = true → t.life.running = false ∧
        (t.life.finalized = true ∨ t.life.initialized = false)) ∧
      (t.life.sinkFail ≠ s.life.sinkFail → initRuns) ∧
      (initRuns → (t.life.sinkFail = true ↔ failed)))

/-- R119: in a finalized lifetime nothing finalizes again and the sentinel is not pushed again: it goes away only by the
consumer's pop or a reset, and a QUIT that holds then returns OK at AMX's next step (log entry 20 says how a held QUIT
goes on). -/
def Obligations.SentinelIsPushedOnce : Prop :=
  ∀ s t : State, Inv s → s.life.finalized = true → step s = .next t →
    (t.out.sent = true → s.out.sent = true) ∧
    (t.life.finalized = false → t.life.initialized = false) ∧
    (t.out.sent = false → s.out.sent = true → currentTurn s = .pop ∨ currentTurn s = .setReset true) ∧
    (AmxMoves s → s.life.quitPending = true → s.out.sent = false →
      t.regs.status = .ok ∧ t.regs.busy = false ∧ t.life.initialized = false ∧
      t.life.quitPending = false)

/-- R36: in one step a port's tag stays, or advances by exactly 1 as NOTIFY serves the Started port, or becomes 0 at
PORT_OPEN, INIT or a hardware reset. -/
def Obligations.TagLaw : Prop :=
  ∀ (s t : State) (p : Nat), step s = .next t →
    (t.port p).tag = (s.port p).tag ∨
    ((t.port p).tag = (s.port p).tag + 1 ∧ AmxMoves s ∧ s.eng.phase = .notify ∧
      (s.port p).started = true ∧ (t.port p).lastServicedCounter = s.life.cycleCounter) ∨
    ((t.port p).tag = 0 ∧
      (currentTurn s = .setReset true ∨
        (AmxMoves s ∧ s.regs.busy = true ∧
          (decode s.regs.cmdl.word = .command .portOpen ∨ decode s.regs.cmdl.word = .command .init))))

/-- R170, R177, R178: the cycle counter changes only by the increment of a due evaluation, or to 0 at INIT or reset; the
start timestamp changes only to NOW at INIT, or to 0 at reset.  (That INIT and reset do set them is stated by
InitFollowsItsRule and HardResetFollowsItsRule.) -/
def Obligations.CounterLaw : Prop :=
  ∀ s t : State, step s = .next t →
    let initRuns : Prop := AmxMoves s ∧ s.regs.busy = true ∧ decode s.regs.cmdl.word = .command .init
    (t.life.cycleCounter = s.life.cycleCounter ∨
      (t.life.cycleCounter = s.life.cycleCounter + 1 ∧ AmxMoves s ∧ s.regs.busy = false ∧
        s.life.running = true ∧ s.eng.phase = .idle ∧
        s.life.cycleCounter.toNat * s.par.cycleTicks <
          (s.inputs.now - s.life.startTimestamp).toNat) ∨
      (t.life.cycleCounter = 0 ∧ (currentTurn s = .setReset true ∨ initRuns))) ∧
    (t.life.startTimestamp = s.life.startTimestamp ∨
      (t.life.startTimestamp = s.inputs.now ∧ initRuns) ∨
      (t.life.startTimestamp = 0 ∧ currentTurn s = .setReset true))

/-- R70, R78: a byte of memory changes only where a producer writes, where the next zero write of MIX falls in a Started
port's block, or where NOTIFY writes a Started port's read-index word; no command, no host access, no pop and no reset
changes a byte.  And a producer's turn makes its bytes read back: that they are written at once and read back wherever they stand,
backed or not, is in no rule but is the model's choice, log entry 28; the premise on memory there is its canonical form,
and that the bytes do not run round the address space. -/
def Obligations.MemoryLaw : Prop :=
  (∀ (s t : State) (a : Nat), step s = .next t → memGet t.mem a ≠ memGet s.mem a →
    let among (base n : Nat) : Prop := ∃ k < n, a = (base + k) % 2 ^ s.par.addrWidth
    (∃ addr bytes, currentTurn s = .produce addr bytes ∧ among addr.toNat bytes.length) ∨
    (AmxMoves s ∧ s.eng.phase = .mix ∧ s.eng.mixZeroing = true ∧ s.eng.mixPort < s.par.portCount ∧
      (s.port s.eng.mixPort).started = true ∧ s.eng.mixPos < blockLength (s.port s.eng.mixPort) ∧
      among (blockSample s.par (s.port s.eng.mixPort) s.eng.mixPos) 4) ∨
    (AmxMoves s ∧ s.eng.phase = .notify ∧ s.eng.notifyWord ≠ none ∧ s.eng.notifyAt < s.par.portCount ∧
      (s.port s.eng.notifyAt).started = true ∧
      among (s.port s.eng.notifyAt).readIndexAddress.toNat 8)) ∧
  (∀ (s : State) (addr : Word) (bytes : List Byte), Memory.wf s.mem →
    currentTurn s = .produce addr bytes → bytes.length ≤ 2 ^ s.par.addrWidth →
    ∃ t, step s = .next t ∧
      ∀ k < bytes.length, memGet t.mem ((addr.toNat + k) % 2 ^ s.par.addrWidth) = bytes.getD k 0)

/-- R42, R117: BUSY is set by command acceptance and cleared by AMX's own step or a reset; OVERRUN is set by a dropped
CMD write and cleared only by the host or a reset; a port's `opened` and `started` bits are written only by the port
command that says so, by INIT (R110), by a stop acted on in IDLE or HOLD, and by a reset.  (The last case of `started`, a
Closed port that PORT_OPEN opens, is of states that the invariant rules out.) -/
def Obligations.FlagLaw : Prop :=
  ∀ s t : State, step s = .next t →
    let runs (i : Instr) : Prop :=
      AmxMoves s ∧ s.regs.busy = true ∧ decode s.regs.cmdl.word = .command i
    let stopActs : Prop :=
      AmxMoves s ∧ (s.eng.phase = .idle ∨ s.eng.phase = .hold) ∧
        (s.life.stopReq = true ∨ (s.life.running = true ∧ s.inputs.envStop = true)) ∧
        t.life.finalized = true
    let cleared : Prop := currentTurn s = .setReset true ∨ runs .init ∨ stopActs
    (s.regs.busy = false → t.regs.busy = true → ∃ w, currentTurn s = .hostWrite 0x00 32 w) ∧
    (s.regs.busy = true → t.regs.busy = false → AmxMoves s ∨ currentTurn s = .setReset true) ∧
    (s.regs.overrun = false → t.regs.overrun = true →
      s.regs.busy = true ∧ ∃ w, currentTurn s = .hostWrite 0x00 32 w) ∧
    (s.regs.overrun = true → t.regs.overrun = false →
      currentTurn s = .setReset true ∨ ∃ v : Word, currentTurn s = .hostWrite 0x04 32 v ∧ v.getLsbD 9 = true) ∧
    (∀ p, (s.port p).opened = false → (t.port p).opened = true → runs .portOpen) ∧
    (∀ p, (s.port p).opened = true → (t.port p).opened = false → runs (.portClose p) ∨ cleared) ∧
    (∀ p, (s.port p).started = false → (t.port p).started = true → runs (.portStart p)) ∧
    (∀ p, (s.port p).started = true → (t.port p).started = false →
      runs (.portStop p) ∨ runs (.portClose p) ∨ cleared ∨
        (runs .portOpen ∧ (s.port p).opened = false))
end

