-- ==== Sys2Proof/Laws/State.lean ====
section
/-! SUPPORT. One lemma per field per named update of State, all by rfl: a later proof rewrites with them and does not
unfold a record update. -/

namespace Sys2Proof.Machine

variable (s : State)

/-! ### finish -/

@[simp] theorem finish_par (c : Status) : (finish c s).par = s.par := rfl
@[simp] theorem finish_memMap (c : Status) : (finish c s).memMap = s.memMap := rfl
@[simp] theorem finish_cmdl (c : Status) : (finish c s).regs.cmdl = s.regs.cmdl := rfl
@[simp] theorem finish_status (c : Status) : (finish c s).regs.status = c := rfl
@[simp] theorem finish_busy (c : Status) : (finish c s).regs.busy = false := rfl
@[simp] theorem finish_overrun (c : Status) : (finish c s).regs.overrun = s.regs.overrun := rfl
@[simp] theorem finish_args (c : Status) : (finish c s).regs.args = s.regs.args := rfl
@[simp] theorem finish_res (c : Status) : (finish c s).regs.res = s.regs.res := rfl
@[simp] theorem finish_cfgRegionBase (c : Status) : (finish c s).regs.cfgRegionBase = s.regs.cfgRegionBase := rfl
@[simp] theorem finish_cfgIndexBase (c : Status) : (finish c s).regs.cfgIndexBase = s.regs.cfgIndexBase := rfl
@[simp] theorem finish_cfgOut (c : Status) : (finish c s).regs.cfgOut = s.regs.cfgOut := rfl
@[simp] theorem finish_cycleHi (c : Status) : (finish c s).regs.cycleHi = s.regs.cycleHi := rfl
@[simp] theorem finish_startTsHi (c : Status) : (finish c s).regs.startTsHi = s.regs.startTsHi := rfl
@[simp] theorem finish_life (c : Status) : (finish c s).life = s.life := rfl
@[simp] theorem finish_ports (c : Status) : (finish c s).ports = s.ports := rfl
@[simp] theorem finish_eng (c : Status) : (finish c s).eng = s.eng := rfl
@[simp] theorem finish_out (c : Status) : (finish c s).out = s.out := rfl
@[simp] theorem finish_mem (c : Status) : (finish c s).mem = s.mem := rfl
@[simp] theorem finish_inputs (c : Status) : (finish c s).inputs = s.inputs := rfl
@[simp] theorem finish_turns (c : Status) : (finish c s).turns = s.turns := rfl
@[simp] theorem finish_outputs (c : Status) : (finish c s).outputs = s.outputs := rfl
@[simp] theorem finish_draws (c : Status) : (finish c s).draws = s.draws := rfl
@[simp] theorem finish_waiting (c : Status) : (finish c s).waiting = s.waiting := rfl

/-! ### acceptCommand -/

@[simp] theorem acceptCommand_par (w : Word) : (acceptCommand w s).par = s.par := rfl
@[simp] theorem acceptCommand_memMap (w : Word) : (acceptCommand w s).memMap = s.memMap := rfl
@[simp] theorem acceptCommand_cmdl (w : Word) : (acceptCommand w s).regs.cmdl = ⟨w, s.regs.args⟩ := rfl
@[simp] theorem acceptCommand_status (w : Word) : (acceptCommand w s).regs.status = s.regs.status := rfl
@[simp] theorem acceptCommand_busy (w : Word) : (acceptCommand w s).regs.busy = true := rfl
@[simp] theorem acceptCommand_overrun (w : Word) : (acceptCommand w s).regs.overrun = s.regs.overrun := rfl
@[simp] theorem acceptCommand_args (w : Word) : (acceptCommand w s).regs.args = s.regs.args := rfl
@[simp] theorem acceptCommand_res (w : Word) : (acceptCommand w s).regs.res = s.regs.res := rfl
@[simp] theorem acceptCommand_cfgRegionBase (w : Word) : (acceptCommand w s).regs.cfgRegionBase = s.regs.cfgRegionBase := rfl
@[simp] theorem acceptCommand_cfgIndexBase (w : Word) : (acceptCommand w s).regs.cfgIndexBase = s.regs.cfgIndexBase := rfl
@[simp] theorem acceptCommand_cfgOut (w : Word) : (acceptCommand w s).regs.cfgOut = s.regs.cfgOut := rfl
@[simp] theorem acceptCommand_cycleHi (w : Word) : (acceptCommand w s).regs.cycleHi = s.regs.cycleHi := rfl
@[simp] theorem acceptCommand_startTsHi (w : Word) : (acceptCommand w s).regs.startTsHi = s.regs.startTsHi := rfl
@[simp] theorem acceptCommand_life (w : Word) : (acceptCommand w s).life = s.life := rfl
@[simp] theorem acceptCommand_ports (w : Word) : (acceptCommand w s).ports = s.ports := rfl
@[simp] theorem acceptCommand_eng (w : Word) : (acceptCommand w s).eng = s.eng := rfl
@[simp] theorem acceptCommand_out (w : Word) : (acceptCommand w s).out = s.out := rfl
@[simp] theorem acceptCommand_mem (w : Word) : (acceptCommand w s).mem = s.mem := rfl
@[simp] theorem acceptCommand_inputs (w : Word) : (acceptCommand w s).inputs = s.inputs := rfl
@[simp] theorem acceptCommand_turns (w : Word) : (acceptCommand w s).turns = s.turns := rfl
@[simp] theorem acceptCommand_outputs (w : Word) : (acceptCommand w s).outputs = s.outputs := rfl
@[simp] theorem acceptCommand_draws (w : Word) : (acceptCommand w s).draws = s.draws := rfl
@[simp] theorem acceptCommand_waiting (w : Word) : (acceptCommand w s).waiting = s.waiting := rfl

/-! ### setPort -/

@[simp] theorem setPort_par (i : Nat) (e : Port) : (s.setPort i e).par = s.par := rfl
@[simp] theorem setPort_memMap (i : Nat) (e : Port) : (s.setPort i e).memMap = s.memMap := rfl
@[simp] theorem setPort_regs (i : Nat) (e : Port) : (s.setPort i e).regs = s.regs := rfl
@[simp] theorem setPort_life (i : Nat) (e : Port) : (s.setPort i e).life = s.life := rfl
@[simp] theorem setPort_ports (i : Nat) (e : Port) :
    (s.setPort i e).ports = s.ports.set i e := rfl
@[simp] theorem setPort_eng (i : Nat) (e : Port) : (s.setPort i e).eng = s.eng := rfl
@[simp] theorem setPort_out (i : Nat) (e : Port) : (s.setPort i e).out = s.out := rfl
@[simp] theorem setPort_mem (i : Nat) (e : Port) : (s.setPort i e).mem = s.mem := rfl
@[simp] theorem setPort_inputs (i : Nat) (e : Port) : (s.setPort i e).inputs = s.inputs := rfl
@[simp] theorem setPort_turns (i : Nat) (e : Port) : (s.setPort i e).turns = s.turns := rfl
@[simp] theorem setPort_outputs (i : Nat) (e : Port) : (s.setPort i e).outputs = s.outputs := rfl
@[simp] theorem setPort_draws (i : Nat) (e : Port) : (s.setPort i e).draws = s.draws := rfl
@[simp] theorem setPort_waiting (i : Nat) (e : Port) : (s.setPort i e).waiting = s.waiting := rfl

/-! ### setRes -/

@[simp] theorem setRes_par (r : Results) : (s.setRes r).par = s.par := rfl
@[simp] theorem setRes_memMap (r : Results) : (s.setRes r).memMap = s.memMap := rfl
@[simp] theorem setRes_cmdl (r : Results) : (s.setRes r).regs.cmdl = s.regs.cmdl := rfl
@[simp] theorem setRes_status (r : Results) : (s.setRes r).regs.status = s.regs.status := rfl
@[simp] theorem setRes_busy (r : Results) : (s.setRes r).regs.busy = s.regs.busy := rfl
@[simp] theorem setRes_overrun (r : Results) : (s.setRes r).regs.overrun = s.regs.overrun := rfl
@[simp] theorem setRes_args (r : Results) : (s.setRes r).regs.args = s.regs.args := rfl
@[simp] theorem setRes_res (r : Results) : (s.setRes r).regs.res = r := rfl
@[simp] theorem setRes_cfgRegionBase (r : Results) : (s.setRes r).regs.cfgRegionBase = s.regs.cfgRegionBase := rfl
@[simp] theorem setRes_cfgIndexBase (r : Results) : (s.setRes r).regs.cfgIndexBase = s.regs.cfgIndexBase := rfl
@[simp] theorem setRes_cfgOut (r : Results) : (s.setRes r).regs.cfgOut = s.regs.cfgOut := rfl
@[simp] theorem setRes_cycleHi (r : Results) : (s.setRes r).regs.cycleHi = s.regs.cycleHi := rfl
@[simp] theorem setRes_startTsHi (r : Results) : (s.setRes r).regs.startTsHi = s.regs.startTsHi := rfl
@[simp] theorem setRes_life (r : Results) : (s.setRes r).life = s.life := rfl
@[simp] theorem setRes_ports (r : Results) : (s.setRes r).ports = s.ports := rfl
@[simp] theorem setRes_eng (r : Results) : (s.setRes r).eng = s.eng := rfl
@[simp] theorem setRes_out (r : Results) : (s.setRes r).out = s.out := rfl
@[simp] theorem setRes_mem (r : Results) : (s.setRes r).mem = s.mem := rfl
@[simp] theorem setRes_inputs (r : Results) : (s.setRes r).inputs = s.inputs := rfl
@[simp] theorem setRes_turns (r : Results) : (s.setRes r).turns = s.turns := rfl
@[simp] theorem setRes_outputs (r : Results) : (s.setRes r).outputs = s.outputs := rfl
@[simp] theorem setRes_draws (r : Results) : (s.setRes r).draws = s.draws := rfl
@[simp] theorem setRes_waiting (r : Results) : (s.setRes r).waiting = s.waiting := rfl

/-! ### setPortsInUse -/

@[simp] theorem setPortsInUse_par (n : BitVec 9) : (s.setPortsInUse n).par = s.par := rfl
@[simp] theorem setPortsInUse_memMap (n : BitVec 9) : (s.setPortsInUse n).memMap = s.memMap := rfl
@[simp] theorem setPortsInUse_regs (n : BitVec 9) : (s.setPortsInUse n).regs = s.regs := rfl
@[simp] theorem setPortsInUse_initialized (n : BitVec 9) : (s.setPortsInUse n).life.initialized = s.life.initialized := rfl
@[simp] theorem setPortsInUse_running (n : BitVec 9) : (s.setPortsInUse n).life.running = s.life.running := rfl
@[simp] theorem setPortsInUse_stopping (n : BitVec 9) : (s.setPortsInUse n).life.stopping = s.life.stopping := rfl
@[simp] theorem setPortsInUse_finalized (n : BitVec 9) : (s.setPortsInUse n).life.finalized = s.life.finalized := rfl
@[simp] theorem setPortsInUse_sinkFail (n : BitVec 9) : (s.setPortsInUse n).life.sinkFail = s.life.sinkFail := rfl
@[simp] theorem setPortsInUse_stopReq (n : BitVec 9) : (s.setPortsInUse n).life.stopReq = s.life.stopReq := rfl
@[simp] theorem setPortsInUse_quitPending (n : BitVec 9) : (s.setPortsInUse n).life.quitPending = s.life.quitPending := rfl
@[simp] theorem setPortsInUse_portsInUse (n : BitVec 9) : (s.setPortsInUse n).life.portsInUse = n := rfl
@[simp] theorem setPortsInUse_cycleCounter (n : BitVec 9) : (s.setPortsInUse n).life.cycleCounter = s.life.cycleCounter := rfl
@[simp] theorem setPortsInUse_startTimestamp (n : BitVec 9) : (s.setPortsInUse n).life.startTimestamp = s.life.startTimestamp := rfl
@[simp] theorem setPortsInUse_ports (n : BitVec 9) : (s.setPortsInUse n).ports = s.ports := rfl
@[simp] theorem setPortsInUse_eng (n : BitVec 9) : (s.setPortsInUse n).eng = s.eng := rfl
@[simp] theorem setPortsInUse_out (n : BitVec 9) : (s.setPortsInUse n).out = s.out := rfl
@[simp] theorem setPortsInUse_mem (n : BitVec 9) : (s.setPortsInUse n).mem = s.mem := rfl
@[simp] theorem setPortsInUse_inputs (n : BitVec 9) : (s.setPortsInUse n).inputs = s.inputs := rfl
@[simp] theorem setPortsInUse_turns (n : BitVec 9) : (s.setPortsInUse n).turns = s.turns := rfl
@[simp] theorem setPortsInUse_outputs (n : BitVec 9) : (s.setPortsInUse n).outputs = s.outputs := rfl
@[simp] theorem setPortsInUse_draws (n : BitVec 9) : (s.setPortsInUse n).draws = s.draws := rfl
@[simp] theorem setPortsInUse_waiting (n : BitVec 9) : (s.setPortsInUse n).waiting = s.waiting := rfl

/-! ### startRunning -/

@[simp] theorem startRunning_par : (s.startRunning).par = s.par := rfl
@[simp] theorem startRunning_memMap : (s.startRunning).memMap = s.memMap := rfl
@[simp] theorem startRunning_regs : (s.startRunning).regs = s.regs := rfl
@[simp] theorem startRunning_initialized : (s.startRunning).life.initialized = s.life.initialized := rfl
@[simp] theorem startRunning_running : (s.startRunning).life.running = true := rfl
@[simp] theorem startRunning_stopping : (s.startRunning).life.stopping = s.life.stopping := rfl
@[simp] theorem startRunning_finalized : (s.startRunning).life.finalized = s.life.finalized := rfl
@[simp] theorem startRunning_sinkFail : (s.startRunning).life.sinkFail = s.life.sinkFail := rfl
@[simp] theorem startRunning_stopReq : (s.startRunning).life.stopReq = s.life.stopReq := rfl
@[simp] theorem startRunning_quitPending : (s.startRunning).life.quitPending = s.life.quitPending := rfl
@[simp] theorem startRunning_portsInUse : (s.startRunning).life.portsInUse = s.life.portsInUse := rfl
@[simp] theorem startRunning_cycleCounter : (s.startRunning).life.cycleCounter = s.life.cycleCounter := rfl
@[simp] theorem startRunning_startTimestamp : (s.startRunning).life.startTimestamp = s.life.startTimestamp := rfl
@[simp] theorem startRunning_ports : (s.startRunning).ports = s.ports := rfl
@[simp] theorem startRunning_eng : (s.startRunning).eng = s.eng := rfl
@[simp] theorem startRunning_out : (s.startRunning).out = s.out := rfl
@[simp] theorem startRunning_mem : (s.startRunning).mem = s.mem := rfl
@[simp] theorem startRunning_inputs : (s.startRunning).inputs = s.inputs := rfl
@[simp] theorem startRunning_turns : (s.startRunning).turns = s.turns := rfl
@[simp] theorem startRunning_outputs : (s.startRunning).outputs = s.outputs := rfl
@[simp] theorem startRunning_draws : (s.startRunning).draws = s.draws := rfl
@[simp] theorem startRunning_waiting : (s.startRunning).waiting = s.waiting := rfl

/-! ### requestStop -/

@[simp] theorem requestStop_par : (requestStop s).par = s.par := rfl
@[simp] theorem requestStop_memMap : (requestStop s).memMap = s.memMap := rfl
@[simp] theorem requestStop_regs : (requestStop s).regs = s.regs := rfl
@[simp] theorem requestStop_initialized : (requestStop s).life.initialized = s.life.initialized := rfl
@[simp] theorem requestStop_running : (requestStop s).life.running = s.life.running := rfl
@[simp] theorem requestStop_stopping : (requestStop s).life.stopping = true := rfl
@[simp] theorem requestStop_finalized : (requestStop s).life.finalized = s.life.finalized := rfl
@[simp] theorem requestStop_sinkFail : (requestStop s).life.sinkFail = s.life.sinkFail := rfl
@[simp] theorem requestStop_stopReq : (requestStop s).life.stopReq = true := rfl
@[simp] theorem requestStop_quitPending : (requestStop s).life.quitPending = s.life.quitPending := rfl
@[simp] theorem requestStop_portsInUse : (requestStop s).life.portsInUse = s.life.portsInUse := rfl
@[simp] theorem requestStop_cycleCounter : (requestStop s).life.cycleCounter = s.life.cycleCounter := rfl
@[simp] theorem requestStop_startTimestamp : (requestStop s).life.startTimestamp = s.life.startTimestamp := rfl
@[simp] theorem requestStop_ports : (requestStop s).ports = s.ports := rfl
@[simp] theorem requestStop_eng : (requestStop s).eng = s.eng := rfl
@[simp] theorem requestStop_out : (requestStop s).out = s.out := rfl
@[simp] theorem requestStop_mem : (requestStop s).mem = s.mem := rfl
@[simp] theorem requestStop_inputs : (requestStop s).inputs = s.inputs := rfl
@[simp] theorem requestStop_turns : (requestStop s).turns = s.turns := rfl
@[simp] theorem requestStop_outputs : (requestStop s).outputs = s.outputs := rfl
@[simp] theorem requestStop_draws : (requestStop s).draws = s.draws := rfl
@[simp] theorem requestStop_waiting : (requestStop s).waiting = s.waiting := rfl

/-! ### endLifetime -/

@[simp] theorem endLifetime_par : (endLifetime s).par = s.par := rfl
@[simp] theorem endLifetime_memMap : (endLifetime s).memMap = s.memMap := rfl
@[simp] theorem endLifetime_regs : (endLifetime s).regs = s.regs := rfl
@[simp] theorem endLifetime_initialized : (endLifetime s).life.initialized = false := rfl
@[simp] theorem endLifetime_running : (endLifetime s).life.running = false := rfl
@[simp] theorem endLifetime_stopping : (endLifetime s).life.stopping = false := rfl
@[simp] theorem endLifetime_finalized : (endLifetime s).life.finalized = false := rfl
@[simp] theorem endLifetime_sinkFail : (endLifetime s).life.sinkFail = s.life.sinkFail := rfl
@[simp] theorem endLifetime_stopReq : (endLifetime s).life.stopReq = false := rfl
@[simp] theorem endLifetime_quitPending : (endLifetime s).life.quitPending = false := rfl
@[simp] theorem endLifetime_portsInUse : (endLifetime s).life.portsInUse = s.life.portsInUse := rfl
@[simp] theorem endLifetime_cycleCounter : (endLifetime s).life.cycleCounter = s.life.cycleCounter := rfl
@[simp] theorem endLifetime_startTimestamp : (endLifetime s).life.startTimestamp = s.life.startTimestamp := rfl
@[simp] theorem endLifetime_ports : (endLifetime s).ports = s.ports := rfl
@[simp] theorem endLifetime_eng : (endLifetime s).eng = s.eng := rfl
@[simp] theorem endLifetime_out : (endLifetime s).out = s.out := rfl
@[simp] theorem endLifetime_mem : (endLifetime s).mem = s.mem := rfl
@[simp] theorem endLifetime_inputs : (endLifetime s).inputs = s.inputs := rfl
@[simp] theorem endLifetime_turns : (endLifetime s).turns = s.turns := rfl
@[simp] theorem endLifetime_outputs : (endLifetime s).outputs = s.outputs := rfl
@[simp] theorem endLifetime_draws : (endLifetime s).draws = s.draws := rfl
@[simp] theorem endLifetime_waiting : (endLifetime s).waiting = s.waiting := rfl

/-! ### finalize -/

@[simp] theorem finalize_par : (finalize s).par = s.par := rfl
@[simp] theorem finalize_memMap : (finalize s).memMap = s.memMap := rfl
@[simp] theorem finalize_regs : (finalize s).regs = s.regs := rfl
@[simp] theorem finalize_initialized : (finalize s).life.initialized = s.life.initialized := rfl
@[simp] theorem finalize_running : (finalize s).life.running = false := rfl
@[simp] theorem finalize_stopping : (finalize s).life.stopping = false := rfl
@[simp] theorem finalize_finalized : (finalize s).life.finalized = true := rfl
@[simp] theorem finalize_sinkFail : (finalize s).life.sinkFail = s.life.sinkFail := rfl
@[simp] theorem finalize_stopReq : (finalize s).life.stopReq = false := rfl
@[simp] theorem finalize_quitPending : (finalize s).life.quitPending = s.life.quitPending := rfl
@[simp] theorem finalize_portsInUse : (finalize s).life.portsInUse = 0 := rfl
@[simp] theorem finalize_cycleCounter : (finalize s).life.cycleCounter = s.life.cycleCounter := rfl
@[simp] theorem finalize_startTimestamp : (finalize s).life.startTimestamp = s.life.startTimestamp := rfl
@[simp] theorem finalize_ports :
    (finalize s).ports = s.ports.map Port.close := rfl
@[simp] theorem finalize_phase : (finalize s).eng.phase = .idle := rfl
@[simp] theorem finalize_anyActive : (finalize s).eng.anyActive = s.eng.anyActive := rfl
@[simp] theorem finalize_mixPort : (finalize s).eng.mixPort = s.eng.mixPort := rfl
@[simp] theorem finalize_mixBuf : (finalize s).eng.mixBuf = s.eng.mixBuf := rfl
@[simp] theorem finalize_mixZeroing : (finalize s).eng.mixZeroing = s.eng.mixZeroing := rfl
@[simp] theorem finalize_mixPos : (finalize s).eng.mixPos = s.eng.mixPos := rfl
@[simp] theorem finalize_notifyAt : (finalize s).eng.notifyAt = s.eng.notifyAt := rfl
@[simp] theorem finalize_notifyWord : (finalize s).eng.notifyWord = s.eng.notifyWord := rfl
@[simp] theorem finalize_acc2 : (finalize s).eng.acc2 = s.eng.acc2 := rfl
@[simp] theorem finalize_acc8 : (finalize s).eng.acc8 = s.eng.acc8 := rfl
@[simp] theorem finalize_slots : (finalize s).out.slots = s.out.slots := rfl
@[simp] theorem finalize_wslot : (finalize s).out.wslot = s.out.wslot := rfl
@[simp] theorem finalize_wmix : (finalize s).out.wmix = 0 := rfl
@[simp] theorem finalize_q : (finalize s).out.q = s.out.q := rfl
@[simp] theorem finalize_sent : (finalize s).out.sent = true := rfl
@[simp] theorem finalize_mem : (finalize s).mem = s.mem := rfl
@[simp] theorem finalize_inputs : (finalize s).inputs = s.inputs := rfl
@[simp] theorem finalize_turns : (finalize s).turns = s.turns := rfl
@[simp] theorem finalize_outputs : (finalize s).outputs = s.outputs := rfl
@[simp] theorem finalize_draws : (finalize s).draws = s.draws := rfl
@[simp] theorem finalize_waiting : (finalize s).waiting = s.waiting := rfl

/-! ### initialState -/

@[simp] theorem initialState_par : (initialState s).par = s.par := rfl
@[simp] theorem initialState_memMap : (initialState s).memMap = s.memMap := rfl
@[simp] theorem initialState_regs : (initialState s).regs = s.regs := rfl
@[simp] theorem initialState_initialized : (initialState s).life.initialized = true := rfl
@[simp] theorem initialState_running : (initialState s).life.running = false := rfl
@[simp] theorem initialState_stopping : (initialState s).life.stopping = false := rfl
@[simp] theorem initialState_finalized : (initialState s).life.finalized = false := rfl
@[simp] theorem initialState_sinkFail : (initialState s).life.sinkFail = sinkOpenFailed s := rfl
@[simp] theorem initialState_stopReq : (initialState s).life.stopReq = false := rfl
@[simp] theorem initialState_quitPending : (initialState s).life.quitPending = false := rfl
@[simp] theorem initialState_portsInUse : (initialState s).life.portsInUse = 0 := rfl
@[simp] theorem initialState_cycleCounter : (initialState s).life.cycleCounter = 0 := rfl
@[simp] theorem initialState_startTimestamp : (initialState s).life.startTimestamp = s.inputs.now := rfl
@[simp] theorem initialState_ports :
    (initialState s).ports = List.replicate s.par.portCount Port.zero := rfl
@[simp] theorem initialState_phase : (initialState s).eng.phase = .idle := rfl
@[simp] theorem initialState_anyActive : (initialState s).eng.anyActive = s.eng.anyActive := rfl
@[simp] theorem initialState_mixPort : (initialState s).eng.mixPort = s.eng.mixPort := rfl
@[simp] theorem initialState_mixBuf : (initialState s).eng.mixBuf = s.eng.mixBuf := rfl
@[simp] theorem initialState_mixZeroing : (initialState s).eng.mixZeroing = s.eng.mixZeroing := rfl
@[simp] theorem initialState_mixPos : (initialState s).eng.mixPos = s.eng.mixPos := rfl
@[simp] theorem initialState_notifyAt : (initialState s).eng.notifyAt = s.eng.notifyAt := rfl
@[simp] theorem initialState_notifyWord : (initialState s).eng.notifyWord = s.eng.notifyWord := rfl
@[simp] theorem initialState_acc2 : (initialState s).eng.acc2 = s.eng.acc2 := rfl
@[simp] theorem initialState_acc8 : (initialState s).eng.acc8 = s.eng.acc8 := rfl
@[simp] theorem initialState_slots : (initialState s).out.slots = s.out.slots := rfl
@[simp] theorem initialState_wslot : (initialState s).out.wslot = 0 := rfl
@[simp] theorem initialState_wmix : (initialState s).out.wmix = 0 := rfl
@[simp] theorem initialState_q : (initialState s).out.q = [] := rfl
@[simp] theorem initialState_sent : (initialState s).out.sent = false := rfl
@[simp] theorem initialState_mem : (initialState s).mem = s.mem := rfl
@[simp] theorem initialState_inputs : (initialState s).inputs = s.inputs := rfl
@[simp] theorem initialState_turns : (initialState s).turns = s.turns := rfl
@[simp] theorem initialState_outputs : (initialState s).outputs = s.outputs := rfl
@[simp] theorem initialState_draws : (initialState s).draws = s.draws := rfl
@[simp] theorem initialState_waiting : (initialState s).waiting = s.waiting := rfl

/-! ### setPhase -/

@[simp] theorem setPhase_par (ph : Phase) : (s.setPhase ph).par = s.par := rfl
@[simp] theorem setPhase_memMap (ph : Phase) : (s.setPhase ph).memMap = s.memMap := rfl
@[simp] theorem setPhase_regs (ph : Phase) : (s.setPhase ph).regs = s.regs := rfl
@[simp] theorem setPhase_life (ph : Phase) : (s.setPhase ph).life = s.life := rfl
@[simp] theorem setPhase_ports (ph : Phase) : (s.setPhase ph).ports = s.ports := rfl
@[simp] theorem setPhase_phase (ph : Phase) : (s.setPhase ph).eng.phase = ph := rfl
@[simp] theorem setPhase_anyActive (ph : Phase) : (s.setPhase ph).eng.anyActive = s.eng.anyActive := rfl
@[simp] theorem setPhase_mixPort (ph : Phase) : (s.setPhase ph).eng.mixPort = s.eng.mixPort := rfl
@[simp] theorem setPhase_mixBuf (ph : Phase) : (s.setPhase ph).eng.mixBuf = s.eng.mixBuf := rfl
@[simp] theorem setPhase_mixZeroing (ph : Phase) : (s.setPhase ph).eng.mixZeroing = s.eng.mixZeroing := rfl
@[simp] theorem setPhase_mixPos (ph : Phase) : (s.setPhase ph).eng.mixPos = s.eng.mixPos := rfl
@[simp] theorem setPhase_notifyAt (ph : Phase) : (s.setPhase ph).eng.notifyAt = s.eng.notifyAt := rfl
@[simp] theorem setPhase_notifyWord (ph : Phase) : (s.setPhase ph).eng.notifyWord = s.eng.notifyWord := rfl
@[simp] theorem setPhase_acc2 (ph : Phase) : (s.setPhase ph).eng.acc2 = s.eng.acc2 := rfl
@[simp] theorem setPhase_acc8 (ph : Phase) : (s.setPhase ph).eng.acc8 = s.eng.acc8 := rfl
@[simp] theorem setPhase_out (ph : Phase) : (s.setPhase ph).out = s.out := rfl
@[simp] theorem setPhase_mem (ph : Phase) : (s.setPhase ph).mem = s.mem := rfl
@[simp] theorem setPhase_inputs (ph : Phase) : (s.setPhase ph).inputs = s.inputs := rfl
@[simp] theorem setPhase_turns (ph : Phase) : (s.setPhase ph).turns = s.turns := rfl
@[simp] theorem setPhase_outputs (ph : Phase) : (s.setPhase ph).outputs = s.outputs := rfl
@[simp] theorem setPhase_draws (ph : Phase) : (s.setPhase ph).draws = s.draws := rfl
@[simp] theorem setPhase_waiting (ph : Phase) : (s.setPhase ph).waiting = s.waiting := rfl

/-! ### countCycle -/

@[simp] theorem countCycle_par : (countCycle s).par = s.par := rfl
@[simp] theorem countCycle_memMap : (countCycle s).memMap = s.memMap := rfl
@[simp] theorem countCycle_regs : (countCycle s).regs = s.regs := rfl
@[simp] theorem countCycle_initialized : (countCycle s).life.initialized = s.life.initialized := rfl
@[simp] theorem countCycle_running : (countCycle s).life.running = s.life.running := rfl
@[simp] theorem countCycle_stopping : (countCycle s).life.stopping = s.life.stopping := rfl
@[simp] theorem countCycle_finalized : (countCycle s).life.finalized = s.life.finalized := rfl
@[simp] theorem countCycle_sinkFail : (countCycle s).life.sinkFail = s.life.sinkFail := rfl
@[simp] theorem countCycle_stopReq : (countCycle s).life.stopReq = s.life.stopReq := rfl
@[simp] theorem countCycle_quitPending : (countCycle s).life.quitPending = s.life.quitPending := rfl
@[simp] theorem countCycle_portsInUse : (countCycle s).life.portsInUse = s.life.portsInUse := rfl
@[simp] theorem countCycle_cycleCounter : (countCycle s).life.cycleCounter = s.life.cycleCounter + 1 := rfl
@[simp] theorem countCycle_startTimestamp : (countCycle s).life.startTimestamp = s.life.startTimestamp := rfl
@[simp] theorem countCycle_ports : (countCycle s).ports = s.ports := rfl
@[simp] theorem countCycle_eng : (countCycle s).eng = s.eng := rfl
@[simp] theorem countCycle_out : (countCycle s).out = s.out := rfl
@[simp] theorem countCycle_mem : (countCycle s).mem = s.mem := rfl
@[simp] theorem countCycle_inputs : (countCycle s).inputs = s.inputs := rfl
@[simp] theorem countCycle_turns : (countCycle s).turns = s.turns := rfl
@[simp] theorem countCycle_outputs : (countCycle s).outputs = s.outputs := rfl
@[simp] theorem countCycle_draws : (countCycle s).draws = s.draws := rfl
@[simp] theorem countCycle_waiting : (countCycle s).waiting = s.waiting := rfl

/-! ### startMix -/

@[simp] theorem startMix_par : (startMix s).par = s.par := rfl
@[simp] theorem startMix_memMap : (startMix s).memMap = s.memMap := rfl
@[simp] theorem startMix_regs : (startMix s).regs = s.regs := rfl
@[simp] theorem startMix_life : (startMix s).life = s.life := rfl
@[simp] theorem startMix_ports : (startMix s).ports = s.ports := rfl
@[simp] theorem startMix_phase : (startMix s).eng.phase = .mix := rfl
@[simp] theorem startMix_anyActive : (startMix s).eng.anyActive = false := rfl
@[simp] theorem startMix_mixPort : (startMix s).eng.mixPort = 0 := rfl
@[simp] theorem startMix_mixBuf : (startMix s).eng.mixBuf = [] := rfl
@[simp] theorem startMix_mixZeroing : (startMix s).eng.mixZeroing = false := rfl
@[simp] theorem startMix_mixPos : (startMix s).eng.mixPos = 0 := rfl
@[simp] theorem startMix_notifyAt : (startMix s).eng.notifyAt = s.eng.notifyAt := rfl
@[simp] theorem startMix_notifyWord : (startMix s).eng.notifyWord = s.eng.notifyWord := rfl
@[simp] theorem startMix_acc2 : (startMix s).eng.acc2 = s.eng.acc2 := rfl
@[simp] theorem startMix_acc8 : (startMix s).eng.acc8 = s.eng.acc8 := rfl
@[simp] theorem startMix_out : (startMix s).out = s.out := rfl
@[simp] theorem startMix_mem : (startMix s).mem = s.mem := rfl
@[simp] theorem startMix_inputs : (startMix s).inputs = s.inputs := rfl
@[simp] theorem startMix_turns : (startMix s).turns = s.turns := rfl
@[simp] theorem startMix_outputs : (startMix s).outputs = s.outputs := rfl
@[simp] theorem startMix_draws : (startMix s).draws = s.draws := rfl
@[simp] theorem startMix_waiting : (startMix s).waiting = s.waiting := rfl

/-! ### mixBlock -/

@[simp] theorem mixBlock_par (i : Nat) (x : List F32) : (mixBlock i x s).par = s.par := rfl
@[simp] theorem mixBlock_memMap (i : Nat) (x : List F32) : (mixBlock i x s).memMap = s.memMap := rfl
@[simp] theorem mixBlock_regs (i : Nat) (x : List F32) : (mixBlock i x s).regs = s.regs := rfl
@[simp] theorem mixBlock_life (i : Nat) (x : List F32) : (mixBlock i x s).life = s.life := rfl
@[simp] theorem mixBlock_ports (i : Nat) (x : List F32) : (mixBlock i x s).ports = s.ports := rfl
@[simp] theorem mixBlock_phase (i : Nat) (x : List F32) : (mixBlock i x s).eng.phase = s.eng.phase := rfl
@[simp] theorem mixBlock_anyActive (i : Nat) (x : List F32) : (mixBlock i x s).eng.anyActive = s.eng.anyActive := rfl
@[simp] theorem mixBlock_mixPort (i : Nat) (x : List F32) : (mixBlock i x s).eng.mixPort = s.eng.mixPort := rfl
@[simp] theorem mixBlock_mixBuf (i : Nat) (x : List F32) : (mixBlock i x s).eng.mixBuf = [] := rfl
@[simp] theorem mixBlock_mixZeroing (i : Nat) (x : List F32) : (mixBlock i x s).eng.mixZeroing = true := rfl
@[simp] theorem mixBlock_mixPos (i : Nat) (x : List F32) : (mixBlock i x s).eng.mixPos = 0 := rfl
@[simp] theorem mixBlock_notifyAt (i : Nat) (x : List F32) : (mixBlock i x s).eng.notifyAt = s.eng.notifyAt := rfl
@[simp] theorem mixBlock_notifyWord (i : Nat) (x : List F32) : (mixBlock i x s).eng.notifyWord = s.eng.notifyWord := rfl
@[simp] theorem mixBlock_acc2 (i : Nat) (x : List F32) : (mixBlock i x s).eng.acc2 = (mixedFrames s (s.port i) x).map Prod.fst := rfl
@[simp] theorem mixBlock_acc8 (i : Nat) (x : List F32) : (mixBlock i x s).eng.acc8 = (mixedFrames s (s.port i) x).map Prod.snd := rfl
@[simp] theorem mixBlock_out (i : Nat) (x : List F32) : (mixBlock i x s).out = s.out := rfl
@[simp] theorem mixBlock_mem (i : Nat) (x : List F32) : (mixBlock i x s).mem = s.mem := rfl
@[simp] theorem mixBlock_inputs (i : Nat) (x : List F32) : (mixBlock i x s).inputs = s.inputs := rfl
@[simp] theorem mixBlock_turns (i : Nat) (x : List F32) : (mixBlock i x s).turns = s.turns := rfl
@[simp] theorem mixBlock_outputs (i : Nat) (x : List F32) : (mixBlock i x s).outputs = s.outputs := rfl
@[simp] theorem mixBlock_draws (i : Nat) (x : List F32) :
    (mixBlock i x s).draws = s.draws + Config.drawsPerStep := rfl
@[simp] theorem mixBlock_waiting (i : Nat) (x : List F32) : (mixBlock i x s).waiting = s.waiting := rfl

/-! ### mixZero -/

@[simp] theorem mixZero_par (i : Nat) : (mixZero i s).par = s.par := rfl
@[simp] theorem mixZero_memMap (i : Nat) : (mixZero i s).memMap = s.memMap := rfl
@[simp] theorem mixZero_regs (i : Nat) : (mixZero i s).regs = s.regs := rfl
@[simp] theorem mixZero_life (i : Nat) : (mixZero i s).life = s.life := rfl
@[simp] theorem mixZero_ports (i : Nat) : (mixZero i s).ports = s.ports := rfl
@[simp] theorem mixZero_phase (i : Nat) : (mixZero i s).eng.phase = s.eng.phase := rfl
@[simp] theorem mixZero_anyActive (i : Nat) : (mixZero i s).eng.anyActive = s.eng.anyActive := rfl
@[simp] theorem mixZero_mixPort (i : Nat) : (mixZero i s).eng.mixPort = s.eng.mixPort := rfl
@[simp] theorem mixZero_mixBuf (i : Nat) : (mixZero i s).eng.mixBuf = s.eng.mixBuf := rfl
@[simp] theorem mixZero_mixZeroing (i : Nat) : (mixZero i s).eng.mixZeroing = s.eng.mixZeroing := rfl
@[simp] theorem mixZero_mixPos (i : Nat) : (mixZero i s).eng.mixPos = s.eng.mixPos + 1 := rfl
@[simp] theorem mixZero_notifyAt (i : Nat) : (mixZero i s).eng.notifyAt = s.eng.notifyAt := rfl
@[simp] theorem mixZero_notifyWord (i : Nat) : (mixZero i s).eng.notifyWord = s.eng.notifyWord := rfl
@[simp] theorem mixZero_acc2 (i : Nat) : (mixZero i s).eng.acc2 = s.eng.acc2 := rfl
@[simp] theorem mixZero_acc8 (i : Nat) : (mixZero i s).eng.acc8 = s.eng.acc8 := rfl
@[simp] theorem mixZero_out (i : Nat) : (mixZero i s).out = s.out := rfl
@[simp] theorem mixZero_mem (i : Nat) :
    (mixZero i s).mem = stZero s.par s.mem (blockSample s.par (s.port i) s.eng.mixPos) 4 := rfl
@[simp] theorem mixZero_inputs (i : Nat) : (mixZero i s).inputs = s.inputs := rfl
@[simp] theorem mixZero_turns (i : Nat) : (mixZero i s).turns = s.turns := rfl
@[simp] theorem mixZero_outputs (i : Nat) : (mixZero i s).outputs = s.outputs := rfl
@[simp] theorem mixZero_draws (i : Nat) : (mixZero i s).draws = s.draws := rfl
@[simp] theorem mixZero_waiting (i : Nat) : (mixZero i s).waiting = s.waiting := rfl

/-! ### mixNext -/

@[simp] theorem mixNext_par (i : Nat) : (mixNext i s).par = s.par := rfl
@[simp] theorem mixNext_memMap (i : Nat) : (mixNext i s).memMap = s.memMap := rfl
@[simp] theorem mixNext_regs (i : Nat) : (mixNext i s).regs = s.regs := rfl
@[simp] theorem mixNext_life (i : Nat) : (mixNext i s).life = s.life := rfl
@[simp] theorem mixNext_ports (i : Nat) : (mixNext i s).ports = s.ports := rfl
@[simp] theorem mixNext_phase (i : Nat) : (mixNext i s).eng.phase = s.eng.phase := rfl
@[simp] theorem mixNext_anyActive (i : Nat) : (mixNext i s).eng.anyActive = true := rfl
@[simp] theorem mixNext_mixPort (i : Nat) : (mixNext i s).eng.mixPort = i + 1 := rfl
@[simp] theorem mixNext_mixBuf (i : Nat) : (mixNext i s).eng.mixBuf = s.eng.mixBuf := rfl
@[simp] theorem mixNext_mixZeroing (i : Nat) : (mixNext i s).eng.mixZeroing = false := rfl
@[simp] theorem mixNext_mixPos (i : Nat) : (mixNext i s).eng.mixPos = 0 := rfl
@[simp] theorem mixNext_notifyAt (i : Nat) : (mixNext i s).eng.notifyAt = s.eng.notifyAt := rfl
@[simp] theorem mixNext_notifyWord (i : Nat) : (mixNext i s).eng.notifyWord = s.eng.notifyWord := rfl
@[simp] theorem mixNext_acc2 (i : Nat) : (mixNext i s).eng.acc2 = s.eng.acc2 := rfl
@[simp] theorem mixNext_acc8 (i : Nat) : (mixNext i s).eng.acc8 = s.eng.acc8 := rfl
@[simp] theorem mixNext_out (i : Nat) : (mixNext i s).out = s.out := rfl
@[simp] theorem mixNext_mem (i : Nat) : (mixNext i s).mem = s.mem := rfl
@[simp] theorem mixNext_inputs (i : Nat) : (mixNext i s).inputs = s.inputs := rfl
@[simp] theorem mixNext_turns (i : Nat) : (mixNext i s).turns = s.turns := rfl
@[simp] theorem mixNext_outputs (i : Nat) : (mixNext i s).outputs = s.outputs := rfl
@[simp] theorem mixNext_draws (i : Nat) : (mixNext i s).draws = s.draws := rfl
@[simp] theorem mixNext_waiting (i : Nat) : (mixNext i s).waiting = s.waiting := rfl

/-! ### advancePort -/

@[simp] theorem advancePort_par (i : Nat) : (advancePort i s).par = s.par := rfl
@[simp] theorem advancePort_memMap (i : Nat) : (advancePort i s).memMap = s.memMap := rfl
@[simp] theorem advancePort_regs (i : Nat) : (advancePort i s).regs = s.regs := rfl
@[simp] theorem advancePort_life (i : Nat) : (advancePort i s).life = s.life := rfl
@[simp] theorem advancePort_ports (i : Nat) :
    (advancePort i s).ports = s.ports.set i (notifiedPort s (s.port i)) := rfl
@[simp] theorem advancePort_phase (i : Nat) : (advancePort i s).eng.phase = s.eng.phase := rfl
@[simp] theorem advancePort_anyActive (i : Nat) : (advancePort i s).eng.anyActive = s.eng.anyActive := rfl
@[simp] theorem advancePort_mixPort (i : Nat) : (advancePort i s).eng.mixPort = s.eng.mixPort := rfl
@[simp] theorem advancePort_mixBuf (i : Nat) : (advancePort i s).eng.mixBuf = s.eng.mixBuf := rfl
@[simp] theorem advancePort_mixZeroing (i : Nat) : (advancePort i s).eng.mixZeroing = s.eng.mixZeroing := rfl
@[simp] theorem advancePort_mixPos (i : Nat) : (advancePort i s).eng.mixPos = s.eng.mixPos := rfl
@[simp] theorem advancePort_notifyAt (i : Nat) : (advancePort i s).eng.notifyAt = s.eng.notifyAt := rfl
@[simp] theorem advancePort_notifyWord (i : Nat) : (advancePort i s).eng.notifyWord = some (nextPosition (s.port i)) := rfl
@[simp] theorem advancePort_acc2 (i : Nat) : (advancePort i s).eng.acc2 = s.eng.acc2 := rfl
@[simp] theorem advancePort_acc8 (i : Nat) : (advancePort i s).eng.acc8 = s.eng.acc8 := rfl
@[simp] theorem advancePort_out (i : Nat) : (advancePort i s).out = s.out := rfl
@[simp] theorem advancePort_mem (i : Nat) : (advancePort i s).mem = s.mem := rfl
@[simp] theorem advancePort_inputs (i : Nat) : (advancePort i s).inputs = s.inputs := rfl
@[simp] theorem advancePort_turns (i : Nat) : (advancePort i s).turns = s.turns := rfl
@[simp] theorem advancePort_outputs (i : Nat) : (advancePort i s).outputs = s.outputs := rfl
@[simp] theorem advancePort_draws (i : Nat) : (advancePort i s).draws = s.draws := rfl
@[simp] theorem advancePort_waiting (i : Nat) : (advancePort i s).waiting = s.waiting := rfl

/-! ### publishPort -/

@[simp] theorem publishPort_par (i np : Nat) : (publishPort i np s).par = s.par := rfl
@[simp] theorem publishPort_memMap (i np : Nat) : (publishPort i np s).memMap = s.memMap := rfl
@[simp] theorem publishPort_regs (i np : Nat) : (publishPort i np s).regs = s.regs := rfl
@[simp] theorem publishPort_life (i np : Nat) : (publishPort i np s).life = s.life := rfl
@[simp] theorem publishPort_ports (i np : Nat) : (publishPort i np s).ports = s.ports := rfl
@[simp] theorem publishPort_phase (i np : Nat) : (publishPort i np s).eng.phase = s.eng.phase := rfl
@[simp] theorem publishPort_anyActive (i np : Nat) : (publishPort i np s).eng.anyActive = s.eng.anyActive := rfl
@[simp] theorem publishPort_mixPort (i np : Nat) : (publishPort i np s).eng.mixPort = s.eng.mixPort := rfl
@[simp] theorem publishPort_mixBuf (i np : Nat) : (publishPort i np s).eng.mixBuf = s.eng.mixBuf := rfl
@[simp] theorem publishPort_mixZeroing (i np : Nat) : (publishPort i np s).eng.mixZeroing = s.eng.mixZeroing := rfl
@[simp] theorem publishPort_mixPos (i np : Nat) : (publishPort i np s).eng.mixPos = s.eng.mixPos := rfl
@[simp] theorem publishPort_notifyAt (i np : Nat) : (publishPort i np s).eng.notifyAt = i + 1 := rfl
@[simp] theorem publishPort_notifyWord (i np : Nat) : (publishPort i np s).eng.notifyWord = none := rfl
@[simp] theorem publishPort_acc2 (i np : Nat) : (publishPort i np s).eng.acc2 = s.eng.acc2 := rfl
@[simp] theorem publishPort_acc8 (i np : Nat) : (publishPort i np s).eng.acc8 = s.eng.acc8 := rfl
@[simp] theorem publishPort_out (i np : Nat) : (publishPort i np s).out = s.out := rfl
@[simp] theorem publishPort_mem (i np : Nat) :
    (publishPort i np s).mem = memWrite s.par s.mem (s.port i).readIndexAddress.toNat 8 np := rfl
@[simp] theorem publishPort_inputs (i np : Nat) : (publishPort i np s).inputs = s.inputs := rfl
@[simp] theorem publishPort_turns (i np : Nat) : (publishPort i np s).turns = s.turns := rfl
@[simp] theorem publishPort_outputs (i np : Nat) : (publishPort i np s).outputs = s.outputs := rfl
@[simp] theorem publishPort_draws (i np : Nat) : (publishPort i np s).draws = s.draws := rfl
@[simp] theorem publishPort_waiting (i np : Nat) : (publishPort i np s).waiting = s.waiting := rfl

/-! ### notifyEnd -/

@[simp] theorem notifyEnd_par : (notifyEnd s).par = s.par := rfl
@[simp] theorem notifyEnd_memMap : (notifyEnd s).memMap = s.memMap := rfl
@[simp] theorem notifyEnd_regs : (notifyEnd s).regs = s.regs := rfl
@[simp] theorem notifyEnd_life : (notifyEnd s).life = s.life := rfl
@[simp] theorem notifyEnd_ports : (notifyEnd s).ports = s.ports := rfl
@[simp] theorem notifyEnd_phase : (notifyEnd s).eng.phase = .idle := rfl
@[simp] theorem notifyEnd_anyActive : (notifyEnd s).eng.anyActive = s.eng.anyActive := rfl
@[simp] theorem notifyEnd_mixPort : (notifyEnd s).eng.mixPort = s.eng.mixPort := rfl
@[simp] theorem notifyEnd_mixBuf : (notifyEnd s).eng.mixBuf = s.eng.mixBuf := rfl
@[simp] theorem notifyEnd_mixZeroing : (notifyEnd s).eng.mixZeroing = s.eng.mixZeroing := rfl
@[simp] theorem notifyEnd_mixPos : (notifyEnd s).eng.mixPos = s.eng.mixPos := rfl
@[simp] theorem notifyEnd_notifyAt : (notifyEnd s).eng.notifyAt = 0 := rfl
@[simp] theorem notifyEnd_notifyWord : (notifyEnd s).eng.notifyWord = none := rfl
@[simp] theorem notifyEnd_acc2 : (notifyEnd s).eng.acc2 = s.eng.acc2 := rfl
@[simp] theorem notifyEnd_acc8 : (notifyEnd s).eng.acc8 = s.eng.acc8 := rfl
@[simp] theorem notifyEnd_out : (notifyEnd s).out = s.out := rfl
@[simp] theorem notifyEnd_mem : (notifyEnd s).mem = s.mem := rfl
@[simp] theorem notifyEnd_inputs : (notifyEnd s).inputs = s.inputs := rfl
@[simp] theorem notifyEnd_turns : (notifyEnd s).turns = s.turns := rfl
@[simp] theorem notifyEnd_outputs :
    (notifyEnd s).outputs = s.outputs ++ cycleEvents s := rfl
@[simp] theorem notifyEnd_draws : (notifyEnd s).draws = s.draws := rfl
@[simp] theorem notifyEnd_waiting : (notifyEnd s).waiting = s.waiting := rfl

/-! ### respond -/

@[simp] theorem respond_par (b : Bool) (d : Word) : (s.respond b d).par = s.par := rfl
@[simp] theorem respond_memMap (b : Bool) (d : Word) : (s.respond b d).memMap = s.memMap := rfl
@[simp] theorem respond_regs (b : Bool) (d : Word) : (s.respond b d).regs = s.regs := rfl
@[simp] theorem respond_life (b : Bool) (d : Word) : (s.respond b d).life = s.life := rfl
@[simp] theorem respond_ports (b : Bool) (d : Word) : (s.respond b d).ports = s.ports := rfl
@[simp] theorem respond_eng (b : Bool) (d : Word) : (s.respond b d).eng = s.eng := rfl
@[simp] theorem respond_out (b : Bool) (d : Word) : (s.respond b d).out = s.out := rfl
@[simp] theorem respond_mem (b : Bool) (d : Word) : (s.respond b d).mem = s.mem := rfl
@[simp] theorem respond_inputs (b : Bool) (d : Word) : (s.respond b d).inputs = s.inputs := rfl
@[simp] theorem respond_turns (b : Bool) (d : Word) : (s.respond b d).turns = s.turns := rfl
@[simp] theorem respond_outputs (b : Bool) (d : Word) :
    (s.respond b d).outputs = s.outputs ++ [.bus b d] := rfl
@[simp] theorem respond_draws (b : Bool) (d : Word) : (s.respond b d).draws = s.draws := rfl
@[simp] theorem respond_waiting (b : Bool) (d : Word) : (s.respond b d).waiting = s.waiting := rfl

/-! ### beginTurn -/

@[simp] theorem beginTurn_par : (beginTurn s).par = s.par := rfl
@[simp] theorem beginTurn_memMap : (beginTurn s).memMap = s.memMap := rfl
@[simp] theorem beginTurn_regs : (beginTurn s).regs = s.regs := rfl
@[simp] theorem beginTurn_life : (beginTurn s).life = s.life := rfl
@[simp] theorem beginTurn_ports : (beginTurn s).ports = s.ports := rfl
@[simp] theorem beginTurn_eng : (beginTurn s).eng = s.eng := rfl
@[simp] theorem beginTurn_out : (beginTurn s).out = s.out := rfl
@[simp] theorem beginTurn_mem : (beginTurn s).mem = s.mem := rfl
@[simp] theorem beginTurn_inputs : (beginTurn s).inputs = s.inputs := rfl
@[simp] theorem beginTurn_turns :
    (beginTurn s).turns = s.turns.tail := rfl
@[simp] theorem beginTurn_outputs :
    (beginTurn s).outputs = [] := rfl
@[simp] theorem beginTurn_draws : (beginTurn s).draws = s.draws := rfl
@[simp] theorem beginTurn_waiting : (beginTurn s).waiting = s.waiting := rfl

/-! ### hardReset -/

@[simp] theorem hardReset_par : (hardReset s).par = s.par := rfl
@[simp] theorem hardReset_memMap : (hardReset s).memMap = s.memMap := rfl
@[simp] theorem hardReset_regs :
    (hardReset s).regs = Regs.reset := rfl
@[simp] theorem hardReset_life :
    (hardReset s).life = Life.reset := rfl
@[simp] theorem hardReset_ports :
    (hardReset s).ports = List.replicate s.par.portCount Port.zero := rfl
@[simp] theorem hardReset_eng :
    (hardReset s).eng = Engine.reset := rfl
@[simp] theorem hardReset_out :
    (hardReset s).out = OutPath.reset s.par := rfl
@[simp] theorem hardReset_mem : (hardReset s).mem = s.mem := rfl
@[simp] theorem hardReset_inputs : (hardReset s).inputs = s.inputs := rfl
@[simp] theorem hardReset_turns : (hardReset s).turns = s.turns := rfl
@[simp] theorem hardReset_outputs : (hardReset s).outputs = s.outputs := rfl
@[simp] theorem hardReset_draws : (hardReset s).draws = s.draws := rfl
@[simp] theorem hardReset_waiting : (hardReset s).waiting = s.waiting := rfl

/-! ### Fields of an updated port entry -/

@[simp] theorem close_opened (e : Port) : (e.close).opened = false := rfl

@[simp] theorem close_started (e : Port) : (e.close).started = false := rfl

@[simp] theorem close_channels (e : Port) : (e.close).channels = e.channels := rfl

@[simp] theorem close_blockCount (e : Port) : (e.close).blockCount = e.blockCount := rfl

@[simp] theorem close_attr (e : Port) : (e.close).attr = e.attr := rfl

@[simp] theorem close_gain (e : Port) : (e.close).gain = e.gain := rfl

@[simp] theorem close_bufferBase (e : Port) : (e.close).bufferBase = e.bufferBase := rfl

@[simp] theorem close_readIndexAddress (e : Port) : (e.close).readIndexAddress = e.readIndexAddress := rfl

@[simp] theorem close_tag (e : Port) : (e.close).tag = e.tag := rfl

@[simp] theorem close_lastServicedCounter (e : Port) : (e.close).lastServicedCounter = e.lastServicedCounter := rfl

@[simp] theorem withStarted_opened (e : Port) (b : Bool) : (e.withStarted b).opened = e.opened := rfl

@[simp] theorem withStarted_started (e : Port) (b : Bool) : (e.withStarted b).started = b := rfl

@[simp] theorem withStarted_channels (e : Port) (b : Bool) : (e.withStarted b).channels = e.channels := rfl

@[simp] theorem withStarted_blockCount (e : Port) (b : Bool) : (e.withStarted b).blockCount = e.blockCount := rfl

@[simp] theorem withStarted_attr (e : Port) (b : Bool) : (e.withStarted b).attr = e.attr := rfl

@[simp] theorem withStarted_gain (e : Port) (b : Bool) : (e.withStarted b).gain = e.gain := rfl

@[simp] theorem withStarted_bufferBase (e : Port) (b : Bool) : (e.withStarted b).bufferBase = e.bufferBase := rfl

@[simp] theorem withStarted_readIndexAddress (e : Port) (b : Bool) : (e.withStarted b).readIndexAddress = e.readIndexAddress := rfl

@[simp] theorem withStarted_tag (e : Port) (b : Bool) : (e.withStarted b).tag = e.tag := rfl

@[simp] theorem withStarted_lastServicedCounter (e : Port) (b : Bool) : (e.withStarted b).lastServicedCounter = e.lastServicedCounter := rfl

@[simp] theorem withGain_opened (e : Port) (g : F32) : (e.withGain g).opened = e.opened := rfl

@[simp] theorem withGain_started (e : Port) (g : F32) : (e.withGain g).started = e.started := rfl

@[simp] theorem withGain_channels (e : Port) (g : F32) : (e.withGain g).channels = e.channels := rfl

@[simp] theorem withGain_blockCount (e : Port) (g : F32) : (e.withGain g).blockCount = e.blockCount := rfl

@[simp] theorem withGain_attr (e : Port) (g : F32) : (e.withGain g).attr = e.attr := rfl

@[simp] theorem withGain_gain (e : Port) (g : F32) : (e.withGain g).gain = g := rfl

@[simp] theorem withGain_bufferBase (e : Port) (g : F32) : (e.withGain g).bufferBase = e.bufferBase := rfl

@[simp] theorem withGain_readIndexAddress (e : Port) (g : F32) : (e.withGain g).readIndexAddress = e.readIndexAddress := rfl

@[simp] theorem withGain_tag (e : Port) (g : F32) : (e.withGain g).tag = e.tag := rfl

@[simp] theorem withGain_lastServicedCounter (e : Port) (g : F32) : (e.withGain g).lastServicedCounter = e.lastServicedCounter := rfl

@[simp] theorem zero_opened : Port.zero.opened = false := rfl

@[simp] theorem zero_started : Port.zero.started = false := rfl

@[simp] theorem close_zero : Port.zero.close = Port.zero := rfl

/-! ### Reading a port entry after it is set -/

@[simp] theorem setPort_port_same (i : Nat) (e : Port) (h : i < s.ports.length) :
    (s.setPort i e).port i = e := by
  simp [State.port, h]

theorem setPort_port_other (i j : Nat) (e : Port) (h : i ≠ j) :
    (s.setPort i e).port j = s.port j := by
  simp [State.port, List.getD_eq_getElem?_getD, List.getElem?_set_ne h]

theorem finalize_port (i : Nat) :
    (finalize s).port i = (s.port i).close := by
  simp only [State.port, finalize_ports, List.getD_eq_getElem?_getD, List.getElem?_map]
  cases s.ports[i]? <;> rfl

/-- A command's entry reads as before in the state with other fields updated. -/
theorem port_congr {t : State} (h : t.ports = s.ports) (i : Nat) : t.port i = s.port i := by
  simp [State.port, h]

end Sys2Proof.Machine
end

