-- ==== Sys2Proof/Laws/Commands.lean ====
section
/-! SUPPORT. What a command can do, said once for each shared check and for each command: if it answers a next state,
then one of the listed cases holds. -/

namespace Sys2Proof.Machine

variable {s t : State} {p : Nat}

/-! ### The shared checks -/

theorem whenInit_cases {body : Result} (h : whenInit s body = .next t) :
    (s.life.initialized = false ∧ t = finish .notInit s) ∨
    (s.life.initialized = true ∧ body = .next t) := by
  unfold whenInit at h
  split at h
  · exact .inr ⟨‹_›, h⟩
  · exact .inl ⟨Bool.eq_false_of_not_eq_true ‹_›, by injection h with h; exact h.symm⟩

theorem withPort_cases {body : Port → Result} (h : withPort p s body = .next t) :
    (s.life.initialized = false ∧ t = finish .notInit s) ∨
    (s.life.initialized = true ∧ s.par.portCount ≤ p ∧ t = finish .param s) ∨
    (s.life.initialized = true ∧ p < s.par.portCount ∧ body (s.port p) = .next t) := by
  rcases whenInit_cases h with h | ⟨hi, h⟩
  · exact .inl h
  · split at h
    · exact .inr (.inr ⟨hi, ‹_›, h⟩)
    · exact .inr (.inl ⟨hi, by omega, by injection h with h; exact h.symm⟩)

theorem whenOpened_cases {e : Port} {body : Result} (h : whenOpened e s body = .next t) :
    (e.opened = false ∧ t = finish .portNotOpen s) ∨ (e.opened = true ∧ body = .next t) := by
  unfold whenOpened at h
  split at h
  · exact .inr ⟨‹_›, h⟩
  · exact .inl ⟨Bool.eq_false_of_not_eq_true ‹_›, by injection h with h; exact h.symm⟩

theorem whenStarted_cases {e : Port} {body : Result} (h : whenStarted e s body = .next t) :
    (e.started = false ∧ t = finish .portNotRun s) ∨ (e.started = true ∧ body = .next t) := by
  unfold whenStarted at h
  split at h
  · exact .inr ⟨‹_›, h⟩
  · exact .inl ⟨Bool.eq_false_of_not_eq_true ‹_›, by injection h with h; exact h.symm⟩

/-- A command was turned away with a status that some rule raises, and nothing else changed (R262). -/
def TurnedAway (s t : State) : Prop :=
  ∃ c, c ≠ .ok ∧ c ≠ .portOpen ∧ c ≠ .eventQueue ∧ t = finish c s

/-- A command with a port and needing it open: turned away, or its body answers. -/
theorem openPort_cases {body : Port → Result}
    (h : (withPort p s fun e => whenOpened e s (body e)) = .next t) :
    TurnedAway s t ∨
    (s.life.initialized = true ∧ p < s.par.portCount ∧ (s.port p).opened = true ∧
      body (s.port p) = .next t) := by
  rcases withPort_cases h with ⟨-, h⟩ | ⟨-, -, h⟩ | ⟨hi, hp, h⟩
  · exact .inl ⟨_, by simp, by simp, by simp, h⟩
  · exact .inl ⟨_, by simp, by simp, by simp, h⟩
  · rcases whenOpened_cases h with ⟨-, h⟩ | ⟨ho, h⟩
    · exact .inl ⟨_, by simp, by simp, by simp, h⟩
    · exact .inr ⟨hi, hp, ho, h⟩

/-- A command with a port and needing it Started: turned away, or its body answers. -/
theorem startedPort_cases {body : Port → Result}
    (h : (withPort p s fun e => whenOpened e s (whenStarted e s (body e))) = .next t) :
    TurnedAway s t ∨
    (s.life.initialized = true ∧ p < s.par.portCount ∧ (s.port p).opened = true ∧
      (s.port p).started = true ∧ body (s.port p) = .next t) := by
  rcases openPort_cases h with h | ⟨hi, hp, ho, h⟩
  · exact .inl h
  · rcases whenStarted_cases h with ⟨-, h⟩ | ⟨hs, h⟩
    · exact .inl ⟨_, by simp, by simp, by simp, h⟩
    · exact .inr ⟨hi, hp, ho, hs, h⟩

/-! ### Each command -/

theorem next_inj {a b : State} (h : (Host.Outcome.next a : Result) = .next b) : b = a := by
  injection h with h; exact h.symm

theorem execInit_cases (h : execInit s = .next t) :
    TurnedAway s t ∨
    (s.life.initialized = false ∧ sinkOpenFailed s = true ∧ t = finish .ok (finalize (initialState s))) ∨
    (s.life.initialized = false ∧ sinkOpenFailed s = false ∧
      t = finish .ok (initialState s).startRunning) := by
  unfold execInit at h
  split at h
  · exact .inl ⟨_, by simp, by simp, by simp, next_inj h⟩
  · split at h
    · exact .inr (.inl ⟨Bool.eq_false_of_not_eq_true ‹_›, ‹_›, next_inj h⟩)
    · exact .inr (.inr ⟨Bool.eq_false_of_not_eq_true ‹_›, Bool.eq_false_of_not_eq_true ‹_›,
        next_inj h⟩)

theorem execQuit_cases (h : execQuit s = .next t) :
    TurnedAway s t ∨
    (s.life.initialized = true ∧ quitMayComplete (quitRequested s) = true ∧
      t = finish .ok (endLifetime (quitRequested s))) ∨
    (s.life.initialized = true ∧ quitMayComplete (quitRequested s) = false ∧ t = quitRequested s) := by
  rcases whenInit_cases h with ⟨-, h⟩ | ⟨hi, h⟩
  · exact .inl ⟨_, by simp, by simp, by simp, h⟩
  · split at h
    · exact .inr (.inl ⟨hi, ‹_›, next_inj h⟩)
    · exact .inr (.inr ⟨hi, Bool.eq_false_of_not_eq_true ‹_›, next_inj h⟩)

theorem execPortOpen_cases (h : execPortOpen s = .next t) :
    TurnedAway s t ∨
    (s.life.initialized = true ∧ openOperandsOk (arg0 s) (arg1 s) = true ∧
      ∃ i, firstClosed s = some i ∧
        t = finish .ok (((s.setPort i (openedPort s i)).setPortsInUse (s.life.portsInUse + 1)).setRes0
          (BitVec.ofNat 32 i))) := by
  rcases whenInit_cases h with ⟨-, h⟩ | ⟨hi, h⟩
  · exact .inl ⟨_, by simp, by simp, by simp, h⟩
  · split at h
    · split at h
      · exact .inl ⟨_, by simp, by simp, by simp, next_inj h⟩
      · exact .inr ⟨hi, ‹_›, _, ‹_›, next_inj h⟩
    · exact .inl ⟨_, by simp, by simp, by simp, next_inj h⟩

/-- PORT_OPEN takes a port of the table that is Closed, and every lower port is open (R130, R131). -/
theorem firstClosed_eq_some {i : Nat} :
    firstClosed s = some i ↔
      i < s.par.portCount ∧ (s.port i).opened = false ∧ ∀ j < i, (s.port j).opened = true := by
  simp only [firstClosed, List.find?_range_eq_some, Bool.not_eq_eq_eq_not, Bool.not_true, List.mem_range,
    Bool.not_false]
  tauto

theorem execPortClose_cases (h : execPortClose p s = .next t) :
    TurnedAway s t ∨
    (s.life.initialized = true ∧ p < s.par.portCount ∧ (s.port p).opened = true ∧
      t = finish .ok ((s.setPort p (s.port p).close).setPortsInUse
        (s.life.portsInUse - 1))) := by
  rcases openPort_cases h with h | ⟨hi, hp, ho, h⟩
  · exact .inl h
  · exact .inr ⟨hi, hp, ho, next_inj h⟩

theorem execPortStart_cases (h : execPortStart p s = .next t) :
    TurnedAway s t ∨
    (s.life.initialized = true ∧ p < s.par.portCount ∧ (s.port p).opened = true ∧
      (s.port p).started = false ∧ t = finish .ok (s.setPort p ((s.port p).withStarted true))) := by
  rcases openPort_cases h with h | ⟨hi, hp, ho, h⟩
  · exact .inl h
  · split at h
    · exact .inl ⟨_, by simp, by simp, by simp, next_inj h⟩
    · exact .inr ⟨hi, hp, ho, Bool.eq_false_of_not_eq_true ‹_›, next_inj h⟩

theorem execPortStop_cases (h : execPortStop p s = .next t) :
    TurnedAway s t ∨
    (s.life.initialized = true ∧ p < s.par.portCount ∧ (s.port p).opened = true ∧
      (s.port p).started = true ∧ t = finish .ok (s.setPort p ((s.port p).withStarted false))) := by
  rcases startedPort_cases h with h | ⟨hi, hp, ho, hs, h⟩
  · exact .inl h
  · exact .inr ⟨hi, hp, ho, hs, next_inj h⟩

theorem execSetPortLevel_cases (h : execSetPortLevel p s = .next t) :
    TurnedAway s t ∨
    (s.life.initialized = true ∧ p < s.par.portCount ∧ (s.port p).opened = true ∧
      (s.port p).started = true ∧ t = finish .ok (s.setPort p ((s.port p).withGain (arg0 s)))) := by
  rcases startedPort_cases h with h | ⟨hi, hp, ho, hs, h⟩
  · exact .inl h
  · exact .inr ⟨hi, hp, ho, hs, next_inj h⟩

theorem execGetPortConfig_cases (h : execGetPortConfig p s = .next t) :
    TurnedAway s t ∨
    (s.life.initialized = true ∧ p < s.par.portCount ∧
      t = finish .ok (s.setRes (configResults s p (s.port p)))) := by
  rcases withPort_cases h with ⟨-, h⟩ | ⟨-, -, h⟩ | ⟨hi, hp, h⟩
  · exact .inl ⟨_, by simp, by simp, by simp, h⟩
  · exact .inl ⟨_, by simp, by simp, by simp, h⟩
  · exact .inr ⟨hi, hp, next_inj h⟩

theorem execGetPortTimestamp_cases (h : execGetPortTimestamp p s = .next t) :
    TurnedAway s t ∨
    (s.life.initialized = true ∧ p < s.par.portCount ∧ (s.port p).opened = true ∧
      (s.port p).started = true ∧ t = finish .ok (s.setRes64 (tagTimestamp s (s.port p) (arg64 s)))) := by
  rcases startedPort_cases h with h | ⟨hi, hp, ho, hs, h⟩
  · exact .inl h
  · exact .inr ⟨hi, hp, ho, hs, next_inj h⟩

theorem execGetPortBlockTag_cases (h : execGetPortBlockTag p s = .next t) :
    TurnedAway s t ∨
    (s.life.initialized = true ∧ p < s.par.portCount ∧ (s.port p).opened = true ∧
      arg64 s < (s.port p).blockCount.setWidth 64 ∧
      t = finish .ok (s.setRes64 (nextBlockTag (s.port p) (arg64 s)))) := by
  rcases openPort_cases h with h | ⟨hi, hp, ho, h⟩
  · exact .inl h
  · split at h
    · exact .inl ⟨_, by simp, by simp, by simp, next_inj h⟩
    · exact .inr ⟨hi, hp, ho, BitVec.not_le.1 ‹_›, next_inj h⟩

theorem execAddData_eq : execAddData p s = .next (finish .illegalCmd s) := rfl

/-- The latched command executes: the decoded one, or ILLEGAL_CMD (R91). -/
theorem runCommand_cases (h : runCommand s = .next t) :
    (∃ i, decode s.regs.cmdl.word = .command i ∧ exec i s = .next t) ∨
    (∃ w, decode s.regs.cmdl.word = .illegal w ∧ t = finish .illegalCmd s) := by
  unfold runCommand at h
  split at h
  · exact .inl ⟨_, ‹_›, h⟩
  · exact .inr ⟨_, ‹_›, next_inj h⟩

end Sys2Proof.Machine
end

