-- ==== Sys2Proof/Laws/Memory.lean ====
section
/-! SUPPORT. The laws of memory: reading after writing, what a write leaves alone, the canonical form, and the
address space. -/

namespace Sys2Proof.Machine

/-! ### One byte -/

theorem memGet_cons (b : Nat) (v : Byte) (r : List Host.Cell) (a : Nat) :
    memGet ((b, v) :: r) a = if b = a then v else memGet r a := rfl

theorem memGet_of_lt {m : List Host.Cell} {a : Nat} (h : ∀ c ∈ m, a < c.1) : memGet m a = unlisted := by
  induction m with
  | nil => rfl
  | cons c r ih =>
    obtain ⟨b, v⟩ := c
    have hb : a < b := h (b, v) (by simp)
    have hne : b ≠ a := by omega
    rw [memGet_cons, if_neg hne]
    exact ih fun c hc => h c (by simp [hc])

theorem Memory.wf_cons {b : Nat} {v : Byte} {r : List Host.Cell} :
    Memory.wf ((b, v) :: r) ↔ (∀ c ∈ r, b < c.1) ∧ v ≠ unlisted ∧ Memory.wf r := by
  simp only [Memory.wf, List.map_cons, List.pairwise_cons, List.mem_map, List.mem_cons, forall_eq_or_imp,
    forall_exists_index, and_imp, forall_apply_eq_imp_iff₂]
  tauto

/-- Every cell of the written memory is an old cell or the written one. -/
theorem mem_memPut {m : List Host.Cell} {a : Nat} {v : Byte} {c : Host.Cell} (h : c ∈ memPut m a v) :
    c ∈ m ∨ c = (a, v) := by
  induction m with
  | nil =>
    simp only [memPut] at h
    split at h <;> simp_all
  | cons d r ih =>
    obtain ⟨b, w⟩ := d
    simp only [memPut] at h
    split at h
    · split at h
      · exact .inl h
      · rcases List.mem_cons.1 h with h | h
        · exact .inr h
        · exact .inl h
    · split at h
      · split at h
        · exact .inl (by simp [h])
        · rcases List.mem_cons.1 h with h | h
          · exact .inr h
          · exact .inl (by simp [h])
      · rcases List.mem_cons.1 h with h | h
        · exact .inl (by simp [h])
        · rcases ih h with h | h
          · exact .inl (by simp [h])
          · exact .inr h

/-- A write keeps the canonical form. -/
theorem memPut_wf {m : List Host.Cell} (h : Memory.wf m) (a : Nat) (v : Byte) : Memory.wf (memPut m a v) := by
  induction m with
  | nil =>
    simp only [memPut]
    split
    · exact h
    · exact Memory.wf_cons.2 ⟨by simp, ‹_›, h⟩
  | cons c r ih =>
    obtain ⟨b, w⟩ := c
    obtain ⟨hr, hw, hwf⟩ := Memory.wf_cons.1 h
    simp only [memPut]
    split
    · rename_i hab
      split
      · exact h
      · refine Memory.wf_cons.2 ⟨fun c hc => ?_, ‹_›, h⟩
        rcases List.mem_cons.1 hc with rfl | hc
        · exact hab
        · exact lt_trans hab (hr c hc)
    · split
      · rename_i hab
        split
        · exact hwf
        · exact Memory.wf_cons.2 ⟨hab ▸ hr, ‹_›, hwf⟩
      · rename_i h1 h2
        refine Memory.wf_cons.2 ⟨fun c hc => ?_, hw, ih hwf⟩
        rcases mem_memPut hc with hc | rfl
        · exact hr c hc
        · show b < a
          omega

/-- Read after write, at the written address and elsewhere. -/
theorem memGet_memPut {m : List Host.Cell} (h : Memory.wf m) (a : Nat) (v : Byte) (x : Nat) :
    memGet (memPut m a v) x = if x = a then v else memGet m x := by
  induction m with
  | nil =>
    by_cases hv : v = unlisted <;> by_cases hx : x = a <;>
      simp [memPut, memGet, hv, hx, Ne.symm]
  | cons c r ih =>
    obtain ⟨b, w⟩ := c
    obtain ⟨hr, hw, hwf⟩ := Memory.wf_cons.1 h
    simp only [memPut]
    split
    · rename_i hab
      have hgone : memGet ((b, w) :: r) a = unlisted :=
        memGet_of_lt fun c hc => by
          rcases List.mem_cons.1 hc with rfl | hc
          · exact hab
          · exact lt_trans hab (hr c hc)
      by_cases hv : v = unlisted
      · by_cases hx : x = a
        · subst hx; simp [hv, hgone]
        · simp [hv, hx]
      · by_cases hx : x = a
        · subst hx; simp [hv, memGet_cons]
        · simp [hv, memGet_cons (b := a), hx, Ne.symm hx]
    · split
      · rename_i hab
        subst hab
        by_cases hv : v = unlisted
        · by_cases hx : x = a
          · subst hx; simp [hv, memGet_of_lt hr]
          · simp [hv, memGet_cons, hx, Ne.symm hx]
        · by_cases hx : x = a
          · subst hx; simp [hv, memGet_cons]
          · simp [hv, memGet_cons, hx, Ne.symm hx]
      · rename_i h1 h2
        rw [memGet_cons, memGet_cons, ih hwf]
        by_cases hb : b = x
        · have : x ≠ a := by omega
          simp [hb, this]
        · simp [hb]

/-- A write leaves every other byte alone, whatever the form of the memory. -/
theorem memGet_memPut_other (m : List Host.Cell) (a : Nat) (v : Byte) {x : Nat} (hx : x ≠ a) :
    memGet (memPut m a v) x = memGet m x := by
  have hcons : ∀ (w : Byte) (r : List Host.Cell), memGet ((a, w) :: r) x = memGet r x := fun w r => by
    rw [memGet_cons, if_neg (Ne.symm hx)]
  induction m with
  | nil =>
    simp only [memPut]
    split
    · rfl
    · exact hcons v []
  | cons c r ih =>
    obtain ⟨b, w⟩ := c
    simp only [memPut]
    split
    · split
      · rfl
      · exact hcons v _
    · split
      · rename_i hab
        subst hab
        split
        · exact (hcons w r).symm
        · rw [hcons, hcons]
      · rw [memGet_cons, memGet_cons, ih]

/-- A write at an address of the space keeps memory inside the space. -/
theorem memPut_space {m : List Host.Cell} {n a : Nat} {v : Byte} (h : ∀ c ∈ m, c.1 < n) (ha : a < n) :
    ∀ c ∈ memPut m a v, c.1 < n := fun c hc => by
  rcases mem_memPut hc with hc | rfl
  · exact h c hc
  · exact ha

/-! ### Sequences of writes -/

/-- What single-byte writes keep, a sequence of them keeps. -/
theorem foldl_memPut_keeps {α : Type} {P : List Host.Cell → Prop} (f : α → Nat) (g : α → Byte)
    (step : ∀ m x, P m → P (memPut m (f x) (g x))) (l : List α) (m : List Host.Cell) (h : P m) :
    P (l.foldl (fun m x => memPut m (f x) (g x)) m) := by
  induction l generalizing m with
  | nil => exact h
  | cons x l ih => exact ih _ (step m x h)

/-- A sequence of single-byte writes leaves every byte alone that it does not write. -/
theorem memGet_foldl_memPut_other {α : Type} (f : α → Nat) (g : α → Byte) (l : List α) (m : List Host.Cell) {x : Nat}
    (hx : ∀ y ∈ l, x ≠ f y) : memGet (l.foldl (fun m y => memPut m (f y) (g y)) m) x = memGet m x := by
  induction l generalizing m with
  | nil => rfl
  | cons y l ih =>
    rw [List.foldl_cons, ih _ fun z hz => hx z (by simp [hz]), memGet_memPut_other _ _ _ (hx y (by simp))]

/-- After writes at distinct addresses each of the bytes reads back. -/
theorem memGet_foldl_memPut_same {α : Type} (f : α → Nat) (g : α → Byte) (l : List α) {m : List Host.Cell}
    (hm : Memory.wf m) (hl : l.Pairwise fun y z => f y ≠ f z) {y : α} (hy : y ∈ l) :
    memGet (l.foldl (fun m y => memPut m (f y) (g y)) m) (f y) = g y := by
  induction l generalizing m with
  | nil => simp at hy
  | cons z l ih =>
    rw [List.pairwise_cons] at hl
    rcases List.mem_cons.1 hy with rfl | hy
    · rw [List.foldl_cons, memGet_foldl_memPut_other f g l _ hl.1, memGet_memPut hm, if_pos rfl]
    · exact ih (memPut_wf hm _ _) hl.2 hy

theorem wrapAddr_lt (p : Params) (a : Nat) : wrapAddr p a < 2 ^ p.addrWidth :=
  Nat.mod_lt _ (Nat.two_pow_pos _)

/-- Consecutive bytes that do not run round the address space have distinct addresses. -/
theorem wrapAddr_add_ne (p : Params) (a : Nat) {i j : Nat} (hij : i < j) (hj : j < 2 ^ p.addrWidth) :
    wrapAddr p (a + i) ≠ wrapAddr p (a + j) := by
  intro h
  have h := Nat.ModEq.add_left_cancel' a (h : a + i ≡ a + j [MOD 2 ^ p.addrWidth])
  rw [Nat.ModEq, Nat.mod_eq_of_lt (by omega), Nat.mod_eq_of_lt hj] at h
  omega

/-- The same, of all of them at once. -/
theorem wrapAddr_pairwise (p : Params) (a : Nat) {n : Nat} (hn : n ≤ 2 ^ p.addrWidth) :
    (List.range n).Pairwise fun i j => wrapAddr p (a + i) ≠ wrapAddr p (a + j) := by
  rw [List.pairwise_iff_getElem]
  intro i j hi hj hij
  rw [List.length_range] at hi hj
  simpa only [List.getElem_range] using wrapAddr_add_ne p a hij (by omega)

/-- `MemWrite` keeps the canonical form. -/
theorem memWrite_wf {p : Params} {m : List Host.Cell} (h : Memory.wf m) (a n v : Nat) :
    Memory.wf (memWrite p m a n v) :=
  foldl_memPut_keeps (P := Memory.wf) _ _ (fun _ _ h => memPut_wf h _ _) _ _ h

/-- `MemWrite` stays inside the address space. -/
theorem memWrite_space {p : Params} {m : List Host.Cell} (h : ∀ c ∈ m, c.1 < 2 ^ p.addrWidth) (a n v : Nat) :
    ∀ c ∈ memWrite p m a n v, c.1 < 2 ^ p.addrWidth :=
  foldl_memPut_keeps (P := fun m => ∀ c ∈ m, c.1 < 2 ^ p.addrWidth) _ _
    (fun _ _ h => memPut_space h (wrapAddr_lt _ _)) _ _ h

/-- `MemWrite` leaves every byte alone that it does not write. -/
theorem memGet_memWrite_outside (p : Params) (m : List Host.Cell) (a n v x : Nat)
    (h : ∀ k < n, x ≠ wrapAddr p (a + k)) : memGet (memWrite p m a n v) x = memGet m x :=
  memGet_foldl_memPut_other _ _ _ m fun k hk => h k (List.mem_range.1 hk)

/-- The bytes that `MemWrite` writes, in the byte order of R72. -/
theorem memGet_memWrite_inside {p : Params} {m : List Host.Cell} (hm : Memory.wf m) (a v : Nat) {n k : Nat}
    (hn : n ≤ 2 ^ p.addrWidth) (hk : k < n) :
    memGet (memWrite p m a n v) (wrapAddr p (a + k)) = BitVec.ofNat 8 (v / 2 ^ (8 * byteRank p n k)) :=
  memGet_foldl_memPut_same (fun k => wrapAddr p (a + k)) (fun k => BitVec.ofNat 8 (v / 2 ^ (8 * byteRank p n k))) _ hm
    (wrapAddr_pairwise p a hn) (List.mem_range.2 hk)

/-- The bytes of a sample read, in the byte order of R72. -/
theorem ldF32_byte (p : Params) (m : List Host.Cell) (a : Nat) {k : Nat} (hk : k < 4) :
    (ldF32 p m a).extractLsb' (8 * byteRank p 4 k) 8 = memGet m (wrapAddr p (a + k)) := by
  have h0 := (memGet m (wrapAddr p (a + 0))).isLt
  have h1 := (memGet m (wrapAddr p (a + 1))).isLt
  have h2 := (memGet m (wrapAddr p (a + 2))).isLt
  have h3 := (memGet m (wrapAddr p (a + 3))).isLt
  apply BitVec.eq_of_toNat_eq
  simp only [ldF32, memRead, byteRank, BitVec.extractLsb'_toNat, BitVec.toNat_ofNat, Nat.shiftRight_eq_div_pow]
  simp only [show List.range 4 = [0, 1, 2, 3] from rfl, List.map, List.sum_cons, List.sum_nil]
  interval_cases k <;> cases p.memBigEndian <;> simp at * <;> omega

/-- A zero write makes every byte it covers read 0, and leaves the others alone. -/
theorem memGet_stZero {p : Params} {m : List Host.Cell} (hm : Memory.wf m) (a n x : Nat) :
    memGet (stZero p m a n) x = if ∃ k < n, x = wrapAddr p (a + k) then 0 else memGet m x := by
  have key : ∀ l : List Nat, ∀ m, Memory.wf m →
      memGet (l.foldl (fun m k => memPut m (wrapAddr p (a + k))
        (BitVec.ofNat 8 (0 / 2 ^ (8 * byteRank p n k)))) m) x =
      if ∃ k ∈ l, x = wrapAddr p (a + k) then 0 else memGet m x := by
    intro l
    induction l with
    | nil => intros; simp
    | cons k l ih =>
      intro m hm
      rw [List.foldl_cons, ih _ (memPut_wf hm _ _), memGet_memPut hm]
      by_cases h : x = wrapAddr p (a + k)
      · simp [h]
      · simp [h]
  have := key (List.range n) m hm
  simpa only [stZero, memWrite, List.mem_range] using this

/-- The zero writes of a block keep the canonical form. -/
theorem zeroBlock_wf {p : Params} {m : List Host.Cell} (h : Memory.wf m) (e : Port) :
    Memory.wf (zeroBlock p m e) := by
  unfold zeroBlock
  generalize blockSamples p e = l
  induction l generalizing m with
  | nil => exact h
  | cons a l ih => exact ih (memWrite_wf h _ _ _)

/-- The zero writes of a block stay inside the address space. -/
theorem zeroBlock_space {p : Params} {m : List Host.Cell} (h : ∀ c ∈ m, c.1 < 2 ^ p.addrWidth) (e : Port) :
    ∀ c ∈ zeroBlock p m e, c.1 < 2 ^ p.addrWidth := by
  unfold zeroBlock
  generalize blockSamples p e = l
  induction l generalizing m with
  | nil => exact h
  | cons a l ih => exact ih (memWrite_space h _ _ _)

/-- A producer's write leaves every byte alone that it does not write. -/
theorem producerWrite_outside (s : State) (addr : Word) (bytes : List Byte) {x : Nat}
    (h : ∀ k < bytes.length, x ≠ wrapAddr s.par (addr.toNat + k)) :
    memGet (producerWrite addr bytes s).mem x = memGet s.mem x :=
  memGet_foldl_memPut_other _ _ _ s.mem fun k hk => h k (List.mem_range.1 hk)

/-- A producer's bytes read back, if they do not run round the address space. -/
theorem producerWrite_inside {s : State} (hm : Memory.wf s.mem) (addr : Word) (bytes : List Byte)
    (hl : bytes.length ≤ 2 ^ s.par.addrWidth) {k : Nat} (hk : k < bytes.length) :
    memGet (producerWrite addr bytes s).mem (wrapAddr s.par (addr.toNat + k)) = bytes.getD k 0 :=
  memGet_foldl_memPut_same (fun k => wrapAddr s.par (addr.toNat + k)) (fun k => bytes.getD k 0) _ hm
    (wrapAddr_pairwise s.par addr.toNat hl) (List.mem_range.2 hk)

/-- A producer's write keeps the canonical form. -/
theorem producerWrite_wf {s : State} (h : Memory.wf s.mem) (addr : Word) (bytes : List Byte) :
    Memory.wf (producerWrite addr bytes s).mem :=
  foldl_memPut_keeps (P := Memory.wf) _ _ (fun _ _ h => memPut_wf h _ _) _ _ h

/-- A producer's write stays inside the address space. -/
theorem producerWrite_space {s : State} (h : ∀ c ∈ s.mem, c.1 < 2 ^ s.par.addrWidth) (addr : Word)
    (bytes : List Byte) : ∀ c ∈ (producerWrite addr bytes s).mem, c.1 < 2 ^ s.par.addrWidth :=
  foldl_memPut_keeps (P := fun m => ∀ c ∈ m, c.1 < 2 ^ s.par.addrWidth) _ _
    (fun _ _ h => memPut_space h (wrapAddr_lt _ _)) _ _ h

/-! ### Stops -/

/-- An access that does not stop the machine finds plain memory behind all its bytes. -/
theorem accessStop_eq_none {s : State} {n a : Nat} :
    accessStop s n a = none ↔ ∀ k < n, memKind s.memMap (wrapAddr s.par (a + k)) = some .plain := by
  simp only [accessStop, List.findSome?_eq_none_iff, List.mem_range]
  refine forall₂_congr fun k _ => ?_
  unfold byteStop
  rcases memKind s.memMap (wrapAddr s.par (a + k)) with _ | ⟨⟨⟩⟩ <;> simp

/-- The same of several accesses. -/
theorem accessesStop_eq_none {s : State} {n : Nat} {as : List Nat} :
    accessesStop s n as = none ↔ ∀ a ∈ as, ∀ k < n, memKind s.memMap (wrapAddr s.par (a + k)) = some .plain := by
  simp only [accessesStop, List.findSome?_eq_none_iff, accessStop_eq_none]

/-- A stop is never a next state. -/
theorem accessStop_not_next {s t : State} {n a : Nat} : accessStop s n a ≠ some (.next t) := by
  intro h
  obtain ⟨k, _, h⟩ := List.exists_of_findSome?_eq_some h
  unfold byteStop at h
  split at h <;> simp at h

/-- The same of several accesses. -/
theorem accessesStop_not_next {s t : State} {n : Nat} {as : List Nat} :
    accessesStop s n as ≠ some (.next t) := by
  intro h
  obtain ⟨a, _, h⟩ := List.exists_of_findSome?_eq_some h
  exact accessStop_not_next h

end Sys2Proof.Machine
end

