-- ==== Sys2Proof/Laws/Engine.lean ====
section
/-! SUPPORT. What a step of the cycle engine, of the consumer and of the machine can do, said once for each. -/

namespace Sys2Proof.Machine

variable {s t : State}

/-- A sample read of MIX: its four bytes are plain memory, and the sample joins those read before. -/
theorem mixRead_cases {i : Nat} (h : mixRead i s = .next t) :
    accessStop s 4 (blockSample s.par (s.port i) s.eng.mixBuf.length) = none ∧
    t = { s with
      eng := { s.eng with
        mixBuf := s.eng.mixBuf ++ [ldF32 s.par s.mem (blockSample s.par (s.port i) s.eng.mixBuf.length)] } } := by
  unfold mixRead at h
  simp only at h
  split at h
  · rename_i stop hstop
    exact absurd (h ▸ hstop) accessStop_not_next
  · exact ⟨‹_›, next_inj h⟩

/-- One step of MIX at a started port: a sample read, the block mixed, a zero write, or the port done. -/
theorem mixStarted_cases {i : Nat} (h : mixStarted i s = .next t) :
    (s.eng.mixZeroing = false ∧ s.eng.mixBuf.length < blockLength (s.port i) ∧ mixRead i s = .next t) ∨
    (s.eng.mixZeroing = false ∧ blockLength (s.port i) ≤ s.eng.mixBuf.length ∧
      t = mixBlock i s.eng.mixBuf s) ∨
    (s.eng.mixZeroing = true ∧ s.eng.mixPos < blockLength (s.port i) ∧ t = mixZero i s) ∨
    (s.eng.mixZeroing = true ∧ blockLength (s.port i) ≤ s.eng.mixPos ∧ t = mixNext i s) := by
  unfold mixStarted at h
  by_cases hz : s.eng.mixZeroing = true
  · rw [if_pos hz] at h
    by_cases hp : s.eng.mixPos < blockLength (s.port i)
    · rw [if_pos hp] at h
      exact .inr (.inr (.inl ⟨hz, hp, next_inj h⟩))
    · rw [if_neg hp] at h
      exact .inr (.inr (.inr ⟨hz, Nat.le_of_not_lt hp, next_inj h⟩))
  · rw [if_neg hz] at h
    have hz' := Bool.eq_false_of_not_eq_true hz
    split at h
    · exact .inl ⟨hz', ‹_›, h⟩
    · exact .inr (.inl ⟨hz', Nat.le_of_not_lt ‹_›, next_inj h⟩)

/-- One step of MIX: a step at a started port, a port passed over, or the end of the phase. -/
theorem mixStep_cases (h : mixStep s = .next t) :
    (s.eng.mixPort < s.par.portCount ∧ (s.port s.eng.mixPort).started = true ∧
      mixStarted s.eng.mixPort s = .next t) ∨
    (s.eng.mixPort < s.par.portCount ∧ (s.port s.eng.mixPort).started = false ∧
      t = { s with eng := { s.eng with mixPort := s.eng.mixPort + 1 } }) ∨
    (s.par.portCount ≤ s.eng.mixPort ∧ t = mixEnd s) := by
  unfold mixStep at h
  simp only at h
  by_cases hp : s.eng.mixPort < s.par.portCount
  · rw [if_pos hp] at h
    by_cases hs : (s.port s.eng.mixPort).started = true
    · rw [if_pos hs] at h
      exact .inl ⟨hp, hs, h⟩
    · rw [if_neg hs] at h
      exact .inr (.inl ⟨hp, Bool.eq_false_of_not_eq_true hs, next_inj h⟩)
  · rw [if_neg hp] at h
    exact .inr (.inr ⟨Nat.le_of_not_lt hp, next_inj h⟩)

/-- The stop check: no stop, or finalize() after the stop request that ENV_STOP makes (R115, R118). -/
theorem stopCheck_cases (h : stopCheck s = some t) :
    (s.life.running = true ∧ s.inputs.envStop = true ∧ t = finalize (requestStop s)) ∨
    (s.life.stopReq = true ∧ ¬(s.life.running = true ∧ s.inputs.envStop = true) ∧ t = finalize s) := by
  unfold stopCheck at h
  by_cases he : s.life.running = true ∧ s.inputs.envStop = true
  · refine .inl ⟨he.1, he.2, ?_⟩
    simpa [he.1, he.2, eq_comm] using h
  · have hb : (s.life.running && s.inputs.envStop) = false := by
      simpa using he
    rw [hb] at h
    by_cases hr : s.life.stopReq = true
    · exact .inr ⟨hr, he, by simpa [hr, eq_comm] using h⟩
    · simp [hr] at h

/-- A step in IDLE: no step, a stop acted on, or an evaluation (R115, R170, R174). -/
theorem idleStep_cases (h : idleStep s = t) :
    (s.life.running = false ∧ t = s) ∨
    (s.life.running = true ∧ stopCheck s = some t) ∨
    (s.life.running = true ∧ stopCheck s = none ∧ s.regs.busy = true ∧ t = s) ∨
    (s.life.running = true ∧ stopCheck s = none ∧ s.regs.busy = false ∧ t = evaluate s) := by
  unfold idleStep at h
  split at h
  · split at h
    · exact .inr (.inl ⟨‹_›, h ▸ ‹_›⟩)
    · split at h
      · exact .inr (.inr (.inl ⟨‹_›, ‹_›, ‹_›, h.symm⟩))
      · exact .inr (.inr (.inr ⟨‹_›, ‹_›, Bool.eq_false_of_not_eq_true ‹_›, h.symm⟩))
  · exact .inl ⟨Bool.eq_false_of_not_eq_true ‹_›, h.symm⟩

/-- An evaluation: not due, skipped, or a cycle begun (R170, R176). -/
theorem evaluate_cases (h : evaluate s = t) :
    (cycleDue s = false ∧ t = s) ∨
    (cycleDue s = true ∧ s.inputs.pause = true ∧ t = countCycle s) ∨
    (cycleDue s = true ∧ s.inputs.pause = false ∧ t = startMix (countCycle s)) := by
  unfold evaluate at h
  split at h
  · split at h
    · exact .inr (.inl ⟨‹_›, ‹_›, h.symm⟩)
    · exact .inr (.inr ⟨‹_›, Bool.eq_false_of_not_eq_true ‹_›, h.symm⟩)
  · exact .inl ⟨Bool.eq_false_of_not_eq_true ‹_›, h.symm⟩

/-- CONVERT: HOLD, or the write into the slot (R211, R220). -/
theorem convertStep_cases (h : convertStep s = t) :
    (s.out.wmix = 0 ∧ queueFull s = true ∧ t = s.setPhase .hold) ∨
    ((0 < s.out.wmix ∨ queueFull s = false) ∧ t = convertFill s) := by
  unfold convertStep at h
  split at h
  · rename_i hc; exact .inl ⟨hc.1, hc.2, h.symm⟩
  · rename_i hc
    refine .inr ⟨?_, h.symm⟩
    rcases Nat.eq_zero_or_pos s.out.wmix with h0 | h0
    · exact .inr (by simpa [h0] using hc)
    · exact .inl h0

/-- HOLD: a stop, a free slot, or still holding (R220, R271). -/
theorem holdStep_cases (h : holdStep s = t) :
    stopCheck s = some t ∨
    (stopCheck s = none ∧ queueFull s = true ∧ t = s) ∨
    (stopCheck s = none ∧ queueFull s = false ∧ t = s.setPhase .convert) := by
  unfold holdStep at h
  split at h
  · exact .inl (h ▸ ‹_›)
  · split at h
    · exact .inr (.inl ⟨‹_›, ‹_›, h.symm⟩)
    · exact .inr (.inr ⟨‹_›, Bool.eq_false_of_not_eq_true ‹_›, h.symm⟩)

/-- One step of NOTIFY at a started port: its entry advanced, or its read-index word written to plain memory
(R240). -/
theorem notifyStarted_cases {i : Nat} (h : notifyStarted i s = .next t) :
    (s.eng.notifyWord = none ∧ t = advancePort i s) ∨
    (∃ np, s.eng.notifyWord = some np ∧ accessStop s 8 (s.port i).readIndexAddress.toNat = none ∧
      t = publishPort i np s) := by
  unfold notifyStarted at h
  split at h
  · exact .inl ⟨‹_›, next_inj h⟩
  · split at h
    · rename_i stop hstop
      exact absurd (h ▸ hstop) accessStop_not_next
    · exact .inr ⟨_, ‹_›, ‹_›, next_inj h⟩

/-- One step of NOTIFY: a step at a started port, a port passed over, or the end of the cycle (R240, R247). -/
theorem notifyStep_cases (h : notifyStep s = .next t) :
    (s.eng.notifyAt < s.par.portCount ∧ (s.port s.eng.notifyAt).started = true ∧
      notifyStarted s.eng.notifyAt s = .next t) ∨
    (s.eng.notifyAt < s.par.portCount ∧ (s.port s.eng.notifyAt).started = false ∧
      t = { s with eng := { s.eng with notifyAt := s.eng.notifyAt + 1 } }) ∨
    (s.par.portCount ≤ s.eng.notifyAt ∧ t = notifyEnd s) := by
  unfold notifyStep at h
  simp only at h
  by_cases hp : s.eng.notifyAt < s.par.portCount
  · rw [if_pos hp] at h
    by_cases hs : (s.port s.eng.notifyAt).started = true
    · rw [if_pos hs] at h
      exact .inl ⟨hp, hs, h⟩
    · rw [if_neg hs] at h
      exact .inr (.inl ⟨hp, Bool.eq_false_of_not_eq_true hs, next_inj h⟩)
  · rw [if_neg hp] at h
    exact .inr (.inr ⟨Nat.le_of_not_lt hp, next_inj h⟩)

/-- A step of the cycle engine, by phase (R173). -/
theorem engineStep_cases (h : engineStep s = .next t) :
    (s.eng.phase = .idle ∧ idleStep s = t) ∨
    (s.eng.phase = .mix ∧ mixStep s = .next t) ∨
    (s.eng.phase = .convert ∧ convertStep s = t) ∨
    (s.eng.phase = .hold ∧ holdStep s = t) ∨
    (s.eng.phase = .notify ∧ notifyStep s = .next t) := by
  unfold engineStep at h
  split at h
  · exact .inl ⟨‹_›, (next_inj h).symm⟩
  · exact .inr (.inl ⟨‹_›, h⟩)
  · exact .inr (.inr (.inl ⟨‹_›, (next_inj h).symm⟩))
  · exact .inr (.inr (.inr (.inl ⟨‹_›, (next_inj h).symm⟩)))
  · exact .inr (.inr (.inr (.inr ⟨‹_›, h⟩)))

/-- AMX's turn: nothing under reset, a command, or the cycle engine (R174, R290). -/
theorem amxStep_cases (h : amxStep s = .next t) :
    (s.inputs.resetIn = true ∧ t = s) ∨
    (s.inputs.resetIn = false ∧ commandReady s = true ∧ runCommand s = .next t) ∨
    (s.inputs.resetIn = false ∧ commandReady s = false ∧ engineStep s = .next t) := by
  unfold amxStep at h
  split at h
  · exact .inl ⟨‹_›, next_inj h⟩
  · split at h
    · exact .inr (.inl ⟨Bool.eq_false_of_not_eq_true ‹_›, ‹_›, h⟩)
    · exact .inr (.inr ⟨Bool.eq_false_of_not_eq_true ‹_›, Bool.eq_false_of_not_eq_true ‹_›, h⟩)

/-- The consumer's pop: a slot, the sentinel, or a wait (R217). -/
theorem consumerPop_cases (h : consumerPop s = t) :
    (∃ j rest, s.out.q = j :: rest ∧
      t = { s with
        out := { s.out with q := rest }
        outputs := s.outputs ++ [.slot (outFmt s) (s.out.slots.getD j.val [])]
        waiting := false }) ∨
    (s.out.q = [] ∧ s.out.sent = true ∧
      t = { s with
        out := { s.out with sent := false }
        outputs := s.outputs ++ [.sentinel]
        waiting := false }) ∨
    (s.out.q = [] ∧ s.out.sent = false ∧ t = { s with waiting := true }) := by
  unfold consumerPop at h
  split at h
  · exact .inl ⟨_, _, ‹_›, h.symm⟩
  · split at h
    · exact .inr (.inl ⟨‹_›, ‹_›, h.symm⟩)
    · exact .inr (.inr ⟨‹_›, Bool.eq_false_of_not_eq_true ‹_›, h.symm⟩)

/-! ### NOTIFY, port by port -/

/-- One port's notification leaves the other ports alone. -/
theorem notifyPort_port (i j : Nat) (h : i < s.ports.length) :
    (notifyPort s i).port j =
      if i = j ∧ (s.port i).started = true then notifiedPort s (s.port i) else s.port j := by
  unfold notifyPort
  split
  · rename_i hs
    by_cases hij : i = j
    · subst hij
      rw [if_pos ⟨rfl, hs⟩]
      exact setPort_port_same s i (notifiedPort s (s.port i)) h
    · rw [if_neg fun hc => hij hc.1]
      exact setPort_port_other s i j (notifiedPort s (s.port i)) hij
  · rename_i hs
    rw [if_neg fun hc => hs hc.2]

/-- What notification leaves alone. -/
theorem notifyPort_frame (i : Nat) :
    (notifyPort s i).par = s.par ∧ (notifyPort s i).life = s.life ∧ (notifyPort s i).regs = s.regs ∧
    (notifyPort s i).eng = s.eng ∧ (notifyPort s i).out = s.out ∧ (notifyPort s i).inputs = s.inputs ∧
    (notifyPort s i).memMap = s.memMap ∧ (notifyPort s i).turns = s.turns ∧
    (notifyPort s i).outputs = s.outputs ∧ (notifyPort s i).draws = s.draws ∧
    (notifyPort s i).waiting = s.waiting ∧ (notifyPort s i).ports.length = s.ports.length := by
  unfold notifyPort
  split <;> simp [State.setPort]

/-- What a sequence of notifications leaves alone. -/
theorem foldl_notifyPort_frame (l : List Nat) (s : State) :
    (l.foldl notifyPort s).par = s.par ∧ (l.foldl notifyPort s).life = s.life ∧
    (l.foldl notifyPort s).regs = s.regs ∧ (l.foldl notifyPort s).eng = s.eng ∧
    (l.foldl notifyPort s).out = s.out ∧ (l.foldl notifyPort s).inputs = s.inputs ∧
    (l.foldl notifyPort s).memMap = s.memMap ∧ (l.foldl notifyPort s).turns = s.turns ∧
    (l.foldl notifyPort s).outputs = s.outputs ∧ (l.foldl notifyPort s).draws = s.draws ∧
    (l.foldl notifyPort s).waiting = s.waiting ∧ (l.foldl notifyPort s).ports.length = s.ports.length := by
  induction l generalizing s with
  | nil => simp
  | cons i l ih =>
    have h1 := notifyPort_frame (s := s) i
    have h2 := ih (notifyPort s i)
    simp only [List.foldl_cons]
    simp_all

end Sys2Proof.Machine
end

