-- ==== Sys2Proof/Laws/Invariant.lean ====
section
/-! SUPPORT. The parts of the invariant that several steps share: the port table and its count, the ring order of the
queue, aligned addresses, and what the invariant does not look at. -/

namespace Sys2Proof.Machine

variable {s t : State}

/-! ### The invariant -/

/-- The invariant looks at these fields of State only. -/
theorem Inv.congr (h : Inv s) (h1 : t.par = s.par) (h2 : t.ports = s.ports) (h3 : t.life = s.life)
    (h4 : t.regs = s.regs) (h5 : t.eng = s.eng) (h6 : t.out = s.out) (h7 : t.mem = s.mem) : Inv t := by
  obtain ⟨par, map, regs, life, ports, eng, out, mem, inputs, turns, outputs, draws, waiting⟩ := t
  subst h1 h2 h3 h4 h5 h6 h7
  obtain ⟨p, po, li, en, ou, re, me⟩ := h
  exact ⟨p, ⟨po.1, po.2, po.3⟩, ⟨li.1, li.2, li.3, li.4, li.5, li.6, li.7, li.8⟩,
    ⟨en.1, en.2, en.3, en.4, en.5, en.6, en.7⟩, ⟨ou.1, ou.2, ou.3, ou.4, ou.5, ou.6⟩, ⟨re.1, re.2, re.3, re.4⟩,
    ⟨me.1, me.2⟩⟩

/-- Where MIX has no block half done and NOTIFY no read position to write, the engine's invariant says nothing about
the port table. -/
theorem EngineInv.of_idle (h2 : s.eng.acc2.length = Config.frames) (h8 : s.eng.acc8.length = Config.frames)
    (hf : ∀ fr ∈ s.eng.acc8, fr.length = Config.rawCh) (hb : s.eng.mixBuf = [])
    (hz : s.eng.mixZeroing = false) (hw : s.eng.notifyWord = none) : EngineInv s :=
  ⟨h2, h8, hf, fun _ => ⟨hb, hz⟩, by simp [hb, hz], by simp [hb, hz], by simp [hw]⟩

/-- Outside NOTIFY no read position is on its way to memory. -/
theorem EngineInv.no_word (h : EngineInv s) (hp : s.eng.phase ≠ .notify) : s.eng.notifyWord = none := by
  by_contra hw
  obtain ⟨np, hnp⟩ := Option.ne_none_iff_exists'.1 hw
  exact hp (h.publishing np hnp).1

/-- A block that runs is initialized. -/
theorem Inv.initialized_of_running (h : Inv s) (hr : s.life.running = true) : s.life.initialized = true := by
  by_contra hi
  have := (h.life.dead (by simpa using hi)).1
  simp [hr] at this

/-! ### The port table -/

theorem Port.zero_wf : Port.zero.wf := ⟨fun h => by simp [Port.zero] at h, fun h => by simp [Port.zero] at h⟩

theorem PortsInv.port_mem (h : PortsInv s) {i : Nat} (hi : i < s.par.portCount) : s.port i ∈ s.ports := by
  have hl : i < s.ports.length := h.size ▸ hi
  simp only [State.port, List.getD_eq_getElem _ _ hl]
  exact List.getElem_mem hl

/-- Every port, one beyond the table included, is well-formed. -/
theorem PortsInv.port_wf (h : PortsInv s) (i : Nat) : (s.port i).wf := by
  by_cases hi : i < s.par.portCount
  · exact h.each _ (h.port_mem hi)
  · have hl : s.ports.length ≤ i := by rw [h.size]; omega
    rw [show s.port i = Port.zero by simp [State.port, hl]]
    exact Port.zero_wf

theorem PortsInv.set_wf (h : PortsInv s) {i : Nat} {e : Port} (he : e.wf) : ∀ x ∈ s.ports.set i e, x.wf :=
  fun x hx => by
    rcases List.mem_or_eq_of_mem_set hx with hx | rfl
    · exact h.each _ hx
    · exact he

/-- How the number of open ports changes when one entry is replaced. -/
theorem countP_opened_set (l : List Port) (i : Nat) (e : Port) (hi : i < l.length) :
    (l.set i e).countP Port.opened + (if l[i].opened then 1 else 0) =
      l.countP Port.opened + (if e.opened then 1 else 0) := by
  induction l generalizing i with
  | nil => simp at hi
  | cons a l ih =>
    cases i with
    | zero => simp [List.countP_cons]; omega
    | succ i =>
      have := ih i (by simpa using hi)
      simp [List.countP_cons]; omega

/-- portsInUse counts a replaced entry's change. -/
theorem PortsInv.inUse_set (h : PortsInv s) {i : Nat} (hi : i < s.par.portCount) (e : Port) :
    (s.ports.set i e).countP Port.opened + (if (s.port i).opened then 1 else 0) =
      s.ports.countP Port.opened + (if e.opened then 1 else 0) := by
  have hl : i < s.ports.length := h.size ▸ hi
  simpa only [State.port, List.getD_eq_getElem _ _ hl] using countP_opened_set s.ports i e hl

/-! ### Addresses -/

/-- Reduction modulo the address space keeps the alignment. -/
theorem wrapAddr_mod {p : Params} (hp : p.wf) (a : Nat) {m : Nat} (hm : m ∣ 8) : wrapAddr p a % m = a % m :=
  have h8 : (2 : Nat) ^ 3 ∣ 2 ^ p.addrWidth := pow_dvd_pow 2 hp.2.2.2.2.2.2.1
  Nat.mod_mod_of_dvd _ (hm.trans h8)

theorem wrapAddr_lt_word {p : Params} (hp : p.wf) (a : Nat) : wrapAddr p a < 2 ^ 32 :=
  lt_of_lt_of_le (wrapAddr_lt p a) (Nat.pow_le_pow_right (by norm_num) hp.2.2.2.2.2.2.2.1)

theorem and_region_mask_mod (v : Word) : (v &&& 0xFFFFFFFC#32).toNat % 4 = 0 := by
  have h : (v &&& 0xFFFFFFFC#32) &&& 3#32 = 0 := by rw [BitVec.and_assoc]; simp
  have h2 := congrArg BitVec.toNat h
  rw [BitVec.toNat_and] at h2
  exact (Nat.and_two_pow_sub_one_eq_mod (v &&& 0xFFFFFFFC#32).toNat 2).symm.trans h2

theorem and_index_mask_mod (v : Word) : (v &&& 0xFFFFFFF8#32).toNat % 8 = 0 := by
  have h : (v &&& 0xFFFFFFF8#32) &&& 7#32 = 0 := by rw [BitVec.and_assoc]; simp
  have h2 := congrArg BitVec.toNat h
  rw [BitVec.toNat_and] at h2
  exact (Nat.and_two_pow_sub_one_eq_mod (v &&& 0xFFFFFFF8#32).toNat 3).symm.trans h2

theorem and_out_mask_lt (v : Word) : (v &&& 0x00000003#32).toNat < 4 := by
  rw [BitVec.toNat_and]
  exact lt_of_le_of_lt Nat.and_le_right (by decide)

/-! ### The queue -/

theorem inRingOrder_nil (w : Fin 32) : inRingOrder w [] := by simp [inRingOrder]

/-- A push of WSLOT, which then goes on by one, keeps the ring order. -/
theorem inRingOrder_push {w : Fin 32} {q : List (Fin 32)} (h : inRingOrder w q) (hl : q.length < 32) :
    inRingOrder (w + 1) (q ++ [w]) := by
  obtain ⟨-, h2⟩ := h
  refine ⟨by simp; omega, ?_⟩
  simp only [List.map_append, List.map_cons, List.map_nil, List.length_append, List.length_cons, List.length_nil,
    List.range_succ, h2]
  have hw : (w + 1).val = (w.val + 1) % 32 := by rw [Fin.val_add]; rfl
  congr 1
  · refine List.map_congr_left fun k hk => ?_
    simp at hk
    omega
  · simp; omega

/-- A pop keeps the ring order. -/
theorem inRingOrder_pop {w j : Fin 32} {q : List (Fin 32)} (h : inRingOrder w (j :: q)) : inRingOrder w q := by
  obtain ⟨h1, h2⟩ := h
  simp at h1
  refine ⟨by omega, ?_⟩
  simp only [List.map_cons, List.length_cons, List.range_succ_eq_map, List.map_map] at h2
  rw [(List.cons.inj h2).2]
  refine List.map_congr_left fun k hk => ?_
  simp at hk ⊢
  omega

/-! ### Lengths -/

theorem mixFrame_raw_length (K : F32) (first : Bool) (k : Nat) (g : F32) (x : List F32) (acc : Frame) :
    (mixFrame K first k g x acc).2.length = Config.rawCh := by
  unfold mixFrame writeFrame addFrame
  simp only
  split <;> simp

theorem convertedMix_length : (convertedMix s).length = 2 * Config.frames := by
  simp [convertedMix, List.length_flatMap, Nat.mul_comm]

end Sys2Proof.Machine
end

