-- ==== Sys2Proof/Laws/Mixer.lean ====
section
/-! SUPPORT. Runs of the cycle engine: they compose, and what the sample reads and the zero writes of one block come
to. -/

namespace Sys2Proof.Machine

variable {s t : State}

theorem engineRun_succ (h : engineStep s = .next t) (n : Nat) : engineRun (n + 1) s = engineRun n t := by
  simp [engineRun, h]

/-- A run goes on where a run ended. -/
theorem engineRun_add {n : Nat} (h : engineRun n s = .next t) (m : Nat) : engineRun (n + m) s = engineRun m t := by
  induction n generalizing s with
  | zero => rw [Nat.zero_add, next_inj h]
  | succ n ih =>
    rcases he : engineStep s with u | r | r
    · rw [engineRun_succ he] at h
      rw [Nat.succ_add, engineRun_succ he, ih h]
    · simp [engineRun, he] at h
    · simp [engineRun, he] at h

/-- MIX at a Started port, between its blocks. -/
structure AtStartedPort (s : State) (zeroing : Bool) : Prop where
  phase : s.eng.phase = .mix
  port : s.eng.mixPort < s.par.portCount
  started : (s.port s.eng.mixPort).started = true
  zeroing : s.eng.mixZeroing = zeroing

theorem AtStartedPort.step {z : Bool} (h : AtStartedPort s z) : engineStep s = mixStarted s.eng.mixPort s := by
  simp only [engineStep, h.phase, mixStep, h.port, if_true, h.started]

theorem mixStarted_read {i : Nat} (hz : s.eng.mixZeroing = false)
    (hl : s.eng.mixBuf.length < blockLength (s.port i)) : mixStarted i s = mixRead i s := by
  simp only [mixStarted, hz, Bool.false_eq_true, if_false, hl, if_true]

theorem mixStarted_zero {i : Nat} (hz : s.eng.mixZeroing = true) (hl : s.eng.mixPos < blockLength (s.port i)) :
    mixStarted i s = .next (mixZero i s) := by
  simp only [mixStarted, hz, if_true, hl]

/-- A sample read, when `b` holds the samples read so far. -/
theorem AtStartedPort.read (h : AtStartedPort s false) {b : List F32}
    (hb : b.length < blockLength (s.port s.eng.mixPort)) :
    engineStep { s with eng := { s.eng with mixBuf := b } } =
      match accessStop s 4 (blockSample s.par (s.port s.eng.mixPort) b.length) with
      | some stop => stop
      | none => .next { s with eng := { s.eng with
          mixBuf := b ++ [ldF32 s.par s.mem (blockSample s.par (s.port s.eng.mixPort) b.length)] } } := by
  have h' : AtStartedPort { s with eng := { s.eng with mixBuf := b } } false := ⟨h.1, h.2, h.3, h.4⟩
  rw [h'.step, mixStarted_read h'.zeroing hb]
  rfl

/-- The first `k` sample reads of a block. -/
theorem AtStartedPort.reads (h : AtStartedPort s false) (hb : s.eng.mixBuf = []) (k : Nat)
    (hk : k ≤ blockLength (s.port s.eng.mixPort))
    (ha : ∀ j < k, accessStop s 4 (blockSample s.par (s.port s.eng.mixPort) j) = none) :
    engineRun k s = .next { s with eng := { s.eng with
      mixBuf := (List.range k).map fun j =>
        ldF32 s.par s.mem (blockSample s.par (s.port s.eng.mixPort) j) } } := by
  induction k with
  | zero => simp only [engineRun, List.range_zero, List.map_nil, ← hb]
  | succ k ih =>
    have hrun := engineRun_add (ih (by omega) fun j hj => ha j (by omega)) 1
    have hread := h.read (b := (List.range k).map fun j =>
      ldF32 s.par s.mem (blockSample s.par (s.port s.eng.mixPort) j)) (by simpa using hk)
    rw [List.length_map, List.length_range, ha k (by omega)] at hread
    rw [hrun]
    simp only [engineRun, hread, List.range_succ, List.map_append, List.map_cons, List.map_nil]

/-- The first `k` zero writes of a block. -/
theorem AtStartedPort.zeros (h : AtStartedPort s true) (h0 : s.eng.mixPos = 0) (k : Nat)
    (hk : k ≤ blockLength (s.port s.eng.mixPort)) :
    engineRun k s = .next { s with
      mem := ((List.range k).map (blockSample s.par (s.port s.eng.mixPort))).foldl
        (fun m a => stZero s.par m a 4) s.mem
      eng := { s.eng with mixPos := k } } := by
  induction k with
  | zero =>
    simp only [engineRun, List.range_zero, List.map_nil, List.foldl_nil]
    rw [← h0]
  | succ k ih =>
    rw [engineRun_add (ih (by omega)) 1]
    generalize hm : ((List.range k).map (blockSample s.par (s.port s.eng.mixPort))).foldl
      (fun m a => stZero s.par m a 4) s.mem = m
    have h' : AtStartedPort { s with mem := m, eng := { s.eng with mixPos := k } } true :=
      ⟨h.1, h.2, h.3, h.4⟩
    have hz : engineStep { s with mem := m, eng := { s.eng with mixPos := k } } =
        .next (mixZero s.eng.mixPort { s with mem := m, eng := { s.eng with mixPos := k } }) := by
      rw [h'.step, mixStarted_zero h'.zeroing hk]
    simp only [engineRun, hz, List.range_succ, List.map_append, List.map_cons, List.map_nil, List.foldl_append,
      List.foldl_cons, List.foldl_nil, hm]
    rfl

/-- A sequence of zero writes keeps the canonical form. -/
theorem foldl_stZero_wf (p : Params) (as : List Nat) {m : List Host.Cell} (h : Memory.wf m) (n : Nat) :
    Memory.wf (as.foldl (fun m a => stZero p m a n) m) := by
  induction as generalizing m with
  | nil => exact h
  | cons a as ih => exact ih (memWrite_wf h _ _ _)

/-- What a byte reads as after a sequence of zero writes that covers it. -/
theorem memGet_foldl_stZero_inside (p : Params) (as : List Nat) {m : List Host.Cell} (h : Memory.wf m) (n x : Nat)
    (hx : ∃ a ∈ as, ∃ k < n, x = wrapAddr p (a + k)) :
    memGet (as.foldl (fun m a => stZero p m a n) m) x = 0 := by
  have stays : ∀ (as : List Nat) {m : List Host.Cell}, Memory.wf m → memGet m x = 0 →
      memGet (as.foldl (fun m a => stZero p m a n) m) x = 0 := by
    intro as
    induction as with
    | nil => exact fun _ h => h
    | cons a as ih =>
      intro m hm h0
      refine ih (memWrite_wf hm _ _ _) ?_
      rw [memGet_stZero hm]
      split
      · rfl
      · exact h0
  induction as generalizing m with
  | nil => simp at hx
  | cons a as ih =>
    obtain ⟨b, hb, hk⟩ := hx
    rcases List.mem_cons.1 hb with rfl | hb
    · exact stays as (memWrite_wf h _ _ _) ((memGet_stZero h _ _ _).trans (if_pos hk))
    · exact ih (memWrite_wf h _ _ _) ⟨b, hb, hk⟩

/-- What a byte reads as after a sequence of zero writes that leaves it alone. -/
theorem memGet_foldl_stZero_outside (p : Params) (as : List Nat) {m : List Host.Cell} (h : Memory.wf m) (n x : Nat)
    (hx : ¬∃ a ∈ as, ∃ k < n, x = wrapAddr p (a + k)) :
    memGet (as.foldl (fun m a => stZero p m a n) m) x = memGet m x := by
  induction as generalizing m with
  | nil => rfl
  | cons a as ih =>
    have ha : ¬∃ k < n, x = wrapAddr p (a + k) := fun hk => hx ⟨a, by simp, hk⟩
    rw [List.foldl_cons, ih (m := stZero p m a n) (memWrite_wf h _ _ _) fun ⟨b, hb, hk⟩ => hx ⟨b, by simp [hb], hk⟩]
    exact (memGet_stZero h _ _ _).trans (if_neg ha)

end Sys2Proof.Machine
end

