-- ==== Sys2Proof/Laws/Notify.lean ====
section
/-! SUPPORT. Runs of the cycle engine through NOTIFY: they come to R240's loop. -/

namespace Sys2Proof.Machine

variable {s t : State}

/-- NOTIFY at port `i`, with no read position on its way to memory. -/
abbrev atNotify (i : Nat) (s : State) : State :=
  { s with eng := { s.eng with phase := .notify, notifyAt := i, notifyWord := none } }

/-- The steps of NOTIFY at one port, whose read-index word, if it is Started, lies in plain memory. -/
theorem engineRun_notifyPort {i : Nat} (hi : i < s.par.portCount)
    (ha : (s.port i).started = true → accessStop s 8 (s.port i).readIndexAddress.toNat = none) :
    ∃ n, engineRun n (atNotify i s) = .next (atNotify (i + 1) (notifyPort s i)) := by
  by_cases hs : (s.port i).started = true
  · have hlen : i < s.ports.length := by
      by_contra hl
      have : s.port i = Port.zero := by simp [State.port, Nat.le_of_not_lt hl]
      simp [this] at hs
    have h1 : engineStep (atNotify i s) = .next (advancePort i (atNotify i s)) := by
      have h : notifyStep (atNotify i s) = notifyStarted i (atNotify i s) := by
        simp only [notifyStep]
        rw [if_pos hi, if_pos (by exact hs)]
      simp only [engineStep, h, notifyStarted]
    have hport : (advancePort i (atNotify i s)).port i = notifiedPort s (s.port i) := by
      simp only [State.port, advancePort, State.setPort]
      simp [hlen]
      rfl
    have h2 : engineStep (advancePort i (atNotify i s)) =
        .next (publishPort i (nextPosition (s.port i)) (advancePort i (atNotify i s))) := by
      have h : notifyStep (advancePort i (atNotify i s)) = notifyStarted i (advancePort i (atNotify i s)) := by
        simp only [notifyStep]
        exact (if_pos hi).trans (if_pos (by rw [show (advancePort i (atNotify i s)).eng.notifyAt = i from rfl, hport]; exact hs))
      have hstop : accessStop (advancePort i (atNotify i s)) 8
          ((advancePort i (atNotify i s)).port i).readIndexAddress.toNat = none := by
        rw [hport]; exact ha hs
      have hw : (advancePort i (atNotify i s)).eng.notifyWord = some (nextPosition (s.port i)) := rfl
      rw [show engineStep (advancePort i (atNotify i s)) = notifyStep (advancePort i (atNotify i s)) from rfl, h]
      simp only [notifyStarted, hw, hstop]
    refine ⟨2, ?_⟩
    rw [engineRun_succ h1, engineRun_succ h2]
    simp only [engineRun, publishPort, hport, notifyPort, if_pos hs]
    rfl
  · refine ⟨1, ?_⟩
    have h : notifyStep (atNotify i s) = .next (atNotify (i + 1) s) := by
      simp only [notifyStep]
      rw [if_pos hi, if_neg (by exact hs)]
    simp only [engineRun, engineStep, h, notifyPort, if_neg hs]

/-- The loop leaves a port alone that is not in its list. -/
theorem foldl_notifyPort_port_other (l : List Nat) (s : State) (hl : ∀ i ∈ l, i < s.ports.length) {j : Nat}
    (hj : j ∉ l) : (l.foldl notifyPort s).port j = s.port j := by
  induction l generalizing s with
  | nil => rfl
  | cons i l ih =>
    have hlen : (notifyPort s i).ports.length = s.ports.length := (notifyPort_frame i).2.2.2.2.2.2.2.2.2.2.2
    rw [List.foldl_cons, ih _ (fun k hk => hlen ▸ hl k (by simp [hk])) (by simp_all),
      notifyPort_port i j (hl i (by simp)), if_neg fun hc => hj (by simp [hc.1])]

/-- The steps of NOTIFY at the first `k` ports come to the loop over them. -/
theorem engineRun_notifyPorts (hl : s.ports.length = s.par.portCount)
    (ha : ∀ i < s.par.portCount, (s.port i).started = true →
      accessStop s 8 (s.port i).readIndexAddress.toNat = none) (k : Nat) (hk : k ≤ s.par.portCount) :
    ∃ n, engineRun n (atNotify 0 s) = .next (atNotify k ((List.range k).foldl notifyPort s)) := by
  induction k with
  | zero => exact ⟨0, rfl⟩
  | succ k ih =>
    obtain ⟨n, hn⟩ := ih (by omega)
    have hport : ((List.range k).foldl notifyPort s).port k = s.port k :=
      foldl_notifyPort_port_other _ _ (fun i hi => by have := List.mem_range.1 hi; omega) (by simp)
    have hf := foldl_notifyPort_frame (List.range k) s
    obtain ⟨m, hm⟩ := engineRun_notifyPort (s := (List.range k).foldl notifyPort s) (i := k)
      (by rw [hf.1]; omega) fun hs => by
        rw [hport] at hs ⊢
        have := accessStop_eq_none.1 (ha k (by omega) hs)
        rw [accessStop_eq_none, hf.1, hf.2.2.2.2.2.2.1]
        exact this
    refine ⟨n + m, ?_⟩
    rw [engineRun_add hn, hm, List.range_succ, List.foldl_append]
    rfl

/-- NOTIFY, with every read-index word in plain memory, comes to R240's loop and the events. -/
theorem engineRun_notify (hl : s.ports.length = s.par.portCount)
    (ha : ∀ i < s.par.portCount, (s.port i).started = true →
      accessStop s 8 (s.port i).readIndexAddress.toNat = none) :
    ∃ n, engineRun n (atNotify 0 s) = .next (notifyEnd (notifyPorts s)) := by
  obtain ⟨n, hn⟩ := engineRun_notifyPorts hl ha s.par.portCount le_rfl
  refine ⟨n + 1, ?_⟩
  have hc : ¬(notifyPorts s).par.portCount > s.par.portCount := by
    rw [notifyPorts, (foldl_notifyPort_frame _ s).1]; omega
  have hend : engineStep (atNotify s.par.portCount (notifyPorts s)) = .next (notifyEnd (notifyPorts s)) := by
    have h : notifyStep (atNotify s.par.portCount (notifyPorts s)) =
        .next (notifyEnd (atNotify s.par.portCount (notifyPorts s))) := by
      simp only [notifyStep]
      rw [if_neg (by exact hc)]
    simp only [engineStep, h]
    rfl
  rw [engineRun_add hn]
  simp only [engineRun]
  rw [show (List.range s.par.portCount).foldl notifyPort s = notifyPorts s from rfl, hend]

end Sys2Proof.Machine
end

