-- ==== Sys2Proof/Laws/PerInstr.lean ====
section
/-! SUPPORT. The family MatchesRow: the encoding of a well-formed command selects the command's own row of the opcode map
(30_encoding.md R92), one lemma for each constructor. -/

namespace Sys2Proof.Laws.MatchesRow

/-- The word of the command meets its row's mask and match. -/
def Statement (i : Instr) : Prop := i.wf → i.rowSelects (encode i) = true

/-- A command with a port: its word is the opcode with the port in bits 15:8, which the mask takes away. -/
theorem of_port {i : Instr} (op : BitVec 8) (ho : i.opcode = op.toNat) (hm : i.rowMask = 0xFFFF00FF#32)
    (hr : i.rowMatch = op.setWidth 32) : Statement i := fun hp => by
  have h : encode i = (BitVec.ofNat 8 i.portField).setWidth 32 <<< 8 ||| op.setWidth 32 := by
    apply BitVec.eq_of_toNat_eq
    have hs : i.portField <<< 8 ||| op.toNat = i.portField * 256 + op.toNat := by
      rw [Nat.shiftLeft_eq, Nat.mul_comm, ← Nat.two_pow_add_eq_or_of_lt op.isLt, Nat.mul_comm]
    have hlt : i.portField * 256 + op.toNat < 2 ^ 32 := by have := op.isLt; simp only [Instr.wf] at hp; omega
    have hl : i.portField <<< 8 < 2 ^ 32 := lt_of_le_of_lt (Nat.left_le_or.trans hs.le) hlt
    simp only [encode, ho, BitVec.toNat_or, BitVec.toNat_shiftLeft, BitVec.toNat_setWidth, BitVec.toNat_ofNat]
    have ho8 := op.isLt
    simp only [Instr.wf] at hp
    rw [Nat.mod_eq_of_lt hlt, Nat.mod_eq_of_lt (show i.portField < 2 ^ 8 from hp),
      Nat.mod_eq_of_lt (show i.portField < 2 ^ 32 by omega), Nat.mod_eq_of_lt hl,
      Nat.mod_eq_of_lt (show op.toNat < 2 ^ 32 by omega), hs]
  rw [Instr.rowSelects, h, hm, hr, beq_iff_eq]
  generalize BitVec.ofNat 8 i.portField = p
  ext j hj
  simp only [BitVec.getElem_and, BitVec.getElem_or, BitVec.getElem_shiftLeft, BitVec.getElem_setWidth]
  interval_cases j <;> simp

theorem init : Statement .init := fun _ => by decide
theorem quit : Statement .quit := fun _ => by decide
theorem portOpen : Statement .portOpen := fun _ => by decide
theorem portClose (p : Nat) : Statement (.portClose p) := of_port 0x11 rfl rfl rfl
theorem portStart (p : Nat) : Statement (.portStart p) := of_port 0x12 rfl rfl rfl
theorem portStop (p : Nat) : Statement (.portStop p) := of_port 0x13 rfl rfl rfl
theorem setPortLevel (p : Nat) : Statement (.setPortLevel p) := of_port 0x14 rfl rfl rfl
theorem getPortConfig (p : Nat) : Statement (.getPortConfig p) := of_port 0x20 rfl rfl rfl
theorem getPortTimestamp (p : Nat) : Statement (.getPortTimestamp p) := of_port 0x21 rfl rfl rfl
theorem getPortBlockTag (p : Nat) : Statement (.getPortBlockTag p) := of_port 0x22 rfl rfl rfl
theorem addData (p : Nat) : Statement (.addData p) := of_port 0x30 rfl rfl rfl

end Sys2Proof.Laws.MatchesRow
end

