-- ==== Sys2Proof/Tests/Slice0.lean ====
section
/-! SUPPORT. Small tests, their expected values taken from 95_test_vectors.md (the vector's name stands at each), and for
each statement with hypotheses a witness: a concrete state that meets them, clause by clause. -/

namespace Sys2Proof.Tests

open Sys2Proof.Machine

/-! ### States of the test vectors -/

/-- The common configuration of 95_test_vectors.md, not yet initialized. -/
def configured : State :=
  { State.reset with
    regs := { Regs.reset with cfgRegionBase := 0x10000000, cfgIndexBase := 0x00F00000 }
    inputs := { Inputs.reset with now := 1000 } }

/-- After LC1. -/
def live : State :=
  { configured with
    life := { Life.reset with initialized := true, running := true, startTimestamp := 1000 } }

/-- An open port of the common configuration. -/
def mkPort (i ch nb : Nat) (started : Bool) (tag : DWord) : Port where
  opened := true
  started := started
  channels := BitVec.ofNat 8 ch
  blockCount := BitVec.ofNat 8 nb
  attr := 0
  gain := 0x3F800000
  bufferBase := BitVec.ofNat 32 (0x10000000 + i * 0x20000)
  readIndexAddress := BitVec.ofNat 32 (0x00F00000 + 8 * i)
  tag := tag
  lastServicedCounter := tag

/-- LC1 with port 0 Started, port 1 Opened, port 7 Started, the others Closed. -/
def board : State :=
  { live with
    life := { live.life with portsInUse := 3, cycleCounter := 13 }
    ports := [mkPort 0 2 8 true 13, mkPort 1 6 4 false 0, Port.zero, Port.zero, Port.zero, Port.zero,
      Port.zero, mkPort 7 8 16 true 5] }

/-- A command latched with its arguments, BUSY = 1. -/
def latched (s : State) (w : Word) (a0 a1 a2 a3 : Word) : State :=
  { s with regs := { s.regs with cmdl := ⟨w, ⟨a0, a1, a2, a3⟩⟩, busy := true } }

/-- The engine in a phase. -/
def inPhase (s : State) (ph : Phase) : State := { s with eng := { s.eng with phase := ph } }

/-- One agent's turn, after which it is AMX's again. -/
def turn (s : State) (t : Turn) : State := { s with turns := [t] }

/-- What holds of the next state, if the answer is one. -/
def next (r : Result) (p : State → Bool) : Bool :=
  match r with
  | .next t => p t
  | .fault _ => false
  | .refused _ => false

/-- How an answer stops, if it does. -/
def stopOf (r : Result) : Option (Fault ⊕ Refusal) :=
  match r with
  | .next _ => none
  | .fault f => some (.inl f)
  | .refused f => some (.inr f)

/-- All 32 slots queued, the converter about to begin slot 0 again (Q4). -/
def full (s : State) : State := { s with out := { s.out with q := List.finRange 32 } }

/-- MIX at its beginning: ports 0 and 7 are to be mixed. -/
def mixing : State := inPhase board .mix

/-! ### WellFormed and Decode -/

theorem test_wf_accepts_port_255 : (Instr.portClose 255).wf := by decide
theorem test_wf_refuses_port_256 : ¬(Instr.portClose 256).wf ∧ ¬(Instr.portStart 256).wf ∧
    ¬(Instr.portStop 256).wf ∧ ¬(Instr.setPortLevel 256).wf ∧ ¬(Instr.getPortConfig 256).wf ∧
    ¬(Instr.getPortTimestamp 256).wf ∧ ¬(Instr.getPortBlockTag 256).wf ∧ ¬(Instr.addData 256).wf := by decide

/-- INIT, QUIT, PORT_OPEN: `RRRRRRRRRRRRRRRR PPPPPPPP OOOOOOOO` with PORT = 0 (R90, R92). -/
theorem test_decode_no_port :
    decode 0b00000000000000000000000000000001#32 = .command .init ∧
    decode 0b00000000000000000000000000000010#32 = .command .quit ∧
    decode 0b00000000000000000000000000010000#32 = .command .portOpen := by decide

/-- The commands with a port (R90, R92), ports 3, 9, 255 and 0. -/
theorem test_decode_port :
    decode 0b00000000000000000000001100010001#32 = .command (.portClose 3) ∧
    decode 0b00000000000000001111111100010010#32 = .command (.portStart 255) ∧
    decode 0b00000000000000000000100100010011#32 = .command (.portStop 9) ∧
    decode 0b00000000000000000000001000010100#32 = .command (.setPortLevel 2) ∧
    decode 0b00000000000000000000001100100000#32 = .command (.getPortConfig 3) ∧
    decode 0b00000000000000001000000000100001#32 = .command (.getPortTimestamp 128) ∧
    decode 0b00000000000000000000000100100010#32 = .command (.getPortBlockTag 1) ∧
    decode 0b00000000000000000000000000110000#32 = .command (.addData 0) := by decide

/-- DC5, DC6, DC7, DC8, and QUIT and PORT_OPEN with a port. -/
theorem test_decode_illegal :
    decode 0x00010001#32 = .illegal .reservedBits ∧ decode 0x00000101#32 = .illegal .portNotZero ∧
    decode 0x00000102#32 = .illegal .portNotZero ∧ decode 0x0000FF10#32 = .illegal .portNotZero ∧
    decode 0x00000000#32 = .illegal .unknownOpcode ∧ decode 0x00000915#32 = .illegal .unknownOpcode ∧
    decode 0x00000031#32 = .illegal .unknownOpcode := by decide

theorem test_decodeTableWord :
    decodeTableWord 32 0x311 = some (.portClose 3) ∧ decodeTableWord 32 0x10101 = none := by decide

/-- One command of each row. -/
def rows : List Instr :=
  [.init, .quit, .portOpen, .portClose 0, .portStart 0, .portStop 0, .setPortLevel 0, .getPortConfig 0,
    .getPortTimestamp 0, .getPortBlockTag 0, .addData 0]

/-- No word selects two rows: any two rows differ in a bit that both masks keep (R92). -/
theorem test_rows_do_not_overlap :
    rows.Pairwise fun i j => i.rowMatch &&& i.rowMask &&& j.rowMask ≠ j.rowMatch &&& i.rowMask &&& j.rowMask := by
  decide

/-! ### binary32 and conversion -/

/-- MX2: 0.7 × 0.5 and −0.3 × 0.5; MX12: 1.0 + 2^-24 is a tie to even; 2^-24 + 2^-24, then 1.0 + 2^-23. -/
theorem test_float_arithmetic :
    fmul 0 0x3F333333#32 0x3F000000#32 = 0x3EB33333#32 ∧ fmul 0 0xBE99999A#32 0x3F000000#32 = 0xBE19999A#32 ∧
    fadd 0 0x3F800000#32 0x33800000#32 = 0x3F800000#32 ∧
    fadd 0 0x3F800000#32 (fadd 0 0x33800000#32 0x33800000#32) = 0x3F800001#32 := by decide +kernel

/-- MX13: infinity × 0 is a NaN, whatever the draw; 1.0 × 0 is +0.0. -/
theorem test_float_nan : fmul 7 0x7F800000#32 0#32 = nanFrom (Config.freeNaNBits 7) ∧
    fmul 7 0x3F800000#32 0#32 = 0#32 := ⟨rfl, by decide +kernel⟩

/-- CV1, CV3, CV4, CV6, CV7, CV8, CV10, CV12, CV13, CV15, CV16, CV17, CV19. -/
theorem test_conv16 :
    ([0x3F800000#32, 0x40000000#32, 0xC0000000#32, 0xBE800000#32, 0x37800000#32, 0x38400000#32, 0x3F7FFD00#32,
      0x3F7FFF00#32, 0xBF7FFF00#32, 0xFF800000#32, 0x80000000#32, 0x000116C2#32, 0x3F353F7D#32].map fun x =>
      (conv16 Params.reference 0 x).toInt) =
    [32767, 32767, -32768, -8192, 0, 2, 32766, 32767, -32768, -32768, 0, 0, 23200] := by decide +kernel

/-- CV2 and CV13 with PCM16_MIN = −32767. -/
theorem test_conv16_symmetric :
    ([0xBF800000#32, 0xBF7FFF00#32].map fun x =>
      (conv16 { Params.reference with pcm16Min := -32767 } 0 x).toInt) = [-32767, -32767] := by decide +kernel

/-- MX3: 6 channels at gain 1.0, first active port. -/
theorem test_downmix6 :
    mixFrame 0x3F353F7D#32 true 0 0x3F800000#32
      [0x3E800000#32, 0x3F000000#32, 0x3F000000#32, 0x3F000000#32, 0x3E000000#32, 0#32] ((0, 0), []) =
    ((0x3F8A9FBE#32, 0x3F9A9FBE#32),
      [0x3E800000#32, 0x3F000000#32, 0x3F000000#32, 0x3F000000#32, 0x3E000000#32, 0#32, 0#32, 0#32]) := by
  decide +kernel

/-- MX7: 8 channels at gain 0.5. -/
theorem test_downmix8 :
    (mixFrame 0x3F353F7D#32 true 0 0x3F000000#32
      [0x3E800000#32, 0x3F000000#32, 0x3F000000#32, 0x3F000000#32, 0x3E000000#32, 0#32, 0x3D800000#32,
        0xBF000000#32] ((0, 0), [])) =
    ((0x3F129FBE#32, 0x3EB53F7D#32),
      [0x3E000000#32, 0x3E800000#32, 0x3E800000#32, 0x3E800000#32, 0x3D800000#32, 0#32, 0x3D000000#32,
        0xBE800000#32]) := by decide +kernel

/-- MX10: a later 2-channel port leaves raw channel 5 at −0.0. -/
theorem test_later_port_keeps_raw :
    (mixFrame 0x3F353F7D#32 false 0 0x3F800000#32 [0x3F000000#32, 0x3F000000#32]
      ((0, 0), [0, 0, 0, 0, 0, 0x80000000#32, 0, 0])).2 =
    [0x3F000000#32, 0x3F000000#32, 0, 0, 0, 0x80000000#32, 0, 0] := by decide +kernel

/-! ### Memory -/

/-- R72: big-endian, the byte order of the reference parameters; writing 0 removes the entry. -/
theorem test_memory_big_endian :
    memWrite Params.reference [] 0x100 4 0x3F000001 = [(0x100, 0x3F), (0x103, 0x01)] ∧
    memRead Params.reference [(0x100, 0x3F), (0x103, 0x01)] 0x100 4 = 0x3F000001 ∧
    stZero Params.reference [(0x100, 0x3F), (0x103, 0x01), (0x104, 0x02)] 0x100 4 = [(0x104, 0x02)] := by
  decide +kernel

/-- R75: an access at the top of the space goes on at the bottom. -/
theorem test_memory_wraps :
    memWrite Params.reference [] 0xFFFFFFFE 4 0x01020304 =
      [(0, 0x03), (1, 0x04), (0xFFFFFFFE, 0x01), (0xFFFFFFFF, 0x02)] := by decide +kernel

/-! ### Commands -/

/-- LC1. -/
theorem test_init : next (exec .init (latched configured 1 0 0 0 0)) (fun t =>
    t.regs.status == .ok && !t.regs.busy && gstateWord t == 0x3#32 && regRead t .startTsLo == 1000#32 &&
    qstatWord t == 0#32) = true := by decide

/-- LC4: SINK_OK = 0. -/
theorem test_init_sink_fail :
    next (exec .init { configured with inputs := { configured.inputs with sinkOk := false } }) (fun t =>
      t.regs.status == .ok && gstateWord t == 0x29#32 && qstatWord t == 0x10000000#32) = true := by decide

/-- LC9, its first part: QUIT requests the stop and holds with BUSY = 1. -/
theorem test_quit_holds : next (exec .quit (latched live 2 0 0 0 0)) (fun t =>
    t.regs.busy && gstateWord t == 0x7#32) = true := by decide

/-- LC6: QUIT after a failed INIT and the sentinel's pop completes at once; SINK_FAIL is kept. -/
theorem test_quit_completes :
    next (exec .quit
      { latched live 2 0 0 0 0 with
        life := { live.life with running := false, finalized := true, sinkFail := true } })
      (fun t => !t.regs.busy && t.regs.status == .ok && gstateWord t == 0x20#32) = true := by decide

/-- PC2: the init-level attribute. -/
theorem test_portOpen_level : next (exec .portOpen (latched board 0x10 6 4 0x1000 0x3F000000)) (fun t =>
    t.regs.status == .ok && t.regs.res.r0 == 2#32 && (t.port 2).gain == 0x3F000000#32 &&
    (t.port 2).bufferBase == 0x10040000#32 && (t.port 2).readIndexAddress == 0x00F00010#32 &&
    portsInUseWord t == 4#32) = true := by decide

/-- PC4: channels = 4. -/
theorem test_portOpen_param : next (exec .portOpen (latched board 0x10 4 4 0 0)) (fun t =>
    cmdstatWord t == 3#32 && t.ports == board.ports) = true := by decide

/-- PC17: a Started port closes directly. -/
theorem test_portClose : next (exec (.portClose 0) (latched board 0x11 0 0 0 0)) (fun t =>
    t.regs.status == .ok && !(t.port 0).opened && !(t.port 0).started && (t.port 0).tag == 13#64 &&
    portsInUseWord t == 2#32) = true := by decide

/-- DC3: NOT_INIT before PARAM. -/
theorem test_portClose_not_init : next (exec (.portClose 8) configured) (fun t => cmdstatWord t == 2#32) = true := by
  decide

/-- PC6. -/
theorem test_portStart : next (exec (.portStart 1) (latched board 0x112 0 0 0 0)) (fun t =>
    t.regs.status == .ok && (t.port 1).started && (t.port 0).started && (t.port 1).tag == 0#64) = true := by decide

/-- PC7: PORT_ALREADY_RUN. -/
theorem test_portStart_twice : next (exec (.portStart 0) board) (fun t =>
    cmdstatWord t == 7#32 && t.ports == board.ports) = true := by decide

/-- PC15. -/
theorem test_portStop : next (exec (.portStop 0) (latched board 0x13 0 0 0 0)) (fun t =>
    t.regs.status == .ok && (t.port 0).opened && !(t.port 0).started && (t.port 0).tag == 13#64) = true := by decide

/-- PC10: PORT_NOT_RUN. -/
theorem test_portStop_not_run : next (exec (.portStop 1) board) (fun t => cmdstatWord t == 8#32) = true := by decide

/-- PC13: a NaN's bits are stored as given. -/
theorem test_setPortLevel : next (exec (.setPortLevel 0) (latched board 0x14 0x7FC00000 0 0 0)) (fun t =>
    t.regs.status == .ok && (t.port 0).gain == 0x7FC00000#32) = true := by decide

/-- PC14: a Closed port. -/
theorem test_setPortLevel_closed : next (exec (.setPortLevel 5) board) (fun t => cmdstatWord t == 6#32) = true := by
  decide

/-- RA2's kind, port 7 Started, 8 channels, 16 blocks. -/
theorem test_getPortConfig : next (exec (.getPortConfig 7) board) (fun t =>
    t.regs.res == ⟨2, 8, 16, 131072, 0x100E0000, 0x00F00038⟩) = true := by decide

/-- RA3: a Closed port. -/
theorem test_getPortConfig_closed : next (exec (.getPortConfig 5) board) (fun t =>
    t.regs.status == .ok && t.regs.res == ⟨0, 0, 0, 0, 0x100A0000, 0x00F00028⟩) = true := by decide

/-- TS1: lastServicedCounter 3, tag 3, t = 5. -/
theorem test_getPortTimestamp :
    next (exec (.getPortTimestamp 0) { latched board 0x21 5 0 0 0 with ports := [mkPort 0 2 8 true 3] })
      (fun t => t.regs.res.r0 == 0x6C11#32 && t.regs.res.r1 == 0#32) = true := by decide

/-- TS6: t = 2^64 − 1 from tag 0. -/
theorem test_getPortTimestamp_wraps :
    next (exec (.getPortTimestamp 0)
      { latched board 0x21 0xFFFFFFFF 0xFFFFFFFF 0 0 with ports := [mkPort 0 2 8 true 0] })
      (fun t => t.regs.res.r0 == 0xFFFFEF13#32 && t.regs.res.r1 == 0xFFFFFFFF#32) = true := by decide

/-- BT3 and BT13. -/
theorem test_getPortBlockTag :
    next (exec (.getPortBlockTag 0) (latched board 0x22 2 0 0 0)) (fun t =>
      t.regs.res.r0 == 18#32 && t.regs.res.r1 == 0#32) = true ∧
    next (exec (.getPortBlockTag 0)
      { latched board 0x22 0 0 0 0 with ports := [mkPort 0 2 16 true 0xFFFFFFFFFFFFFFFE#64] }) (fun t =>
      t.regs.status == .ok && t.regs.res.r0 == 0#32 && t.regs.res.r1 == 0#32) = true := by decide

/-- BT11: the block number is 64 bits wide. -/
theorem test_getPortBlockTag_wide : next (exec (.getPortBlockTag 0) (latched board 0x22 5 1 0 0)) (fun t =>
    t.regs.status == .param && t.regs.res == board.regs.res) = true := by decide

/-- PC20, and DC2: before NOT_INIT. -/
theorem test_addData : next (exec (.addData 0) configured) (fun t => cmdstatWord t == 0x0A#32) = true := by decide

/-! ### Other agents and the engine -/

/-- DC10: a CMD write while BUSY is dropped. -/
theorem test_cmd_write_dropped : next (step (turn (latched live 0x10 0 0 0 0) (.hostWrite 0 32 0x22))) (fun t =>
    regRead t .cmd == 0x10#32 && cmdstatWord t == 0x300#32) = true := by decide

/-- R31: CFG_INDEX_BASE keeps bits [31:3]; LC11's kind: ignored once initialized. -/
theorem test_cfg_write :
    next (step (turn configured (.hostWrite 0x44 32 0xFFFFFFFF))) (fun t =>
      t.regs.cfgIndexBase == 0xFFFFFFF8#32) = true ∧
    next (step (turn live (.hostWrite 0x44 32 0xFFFFFFFF))) (fun t =>
      t.regs.cfgIndexBase == 0x00F00000#32) = true := by decide

/-- CD1 and CD2. -/
theorem test_cadence :
    next (step live) (fun t => t.life.cycleCounter == 0#64 && t.eng.phase == .idle) = true ∧
    next (step { live with inputs := { live.inputs with now := 1001 } }) (fun t =>
      t.life.cycleCounter == 1#64 && t.eng.phase == .mix) = true := by decide

/-- The addresses given below RA6: port 3, 8 channels, tag 5; port 0, 6 channels, tag 6 of 4 blocks (R152). -/
theorem test_block_addresses :
    blockAddress Params.reference (mkPort 3 8 16 true 5) = 0x1006A000 ∧
    sampleAddress Params.reference (mkPort 3 8 16 true 5) 1 7 = 0x1006A03C ∧
    blockAddress Params.reference (mkPort 0 6 4 true 6) = 0x10003000 := by decide

/-- MX1's first frame in memory, as port 0's block at position 5 (its block is at 0x10000000 + 5 × 2048). -/
theorem test_mix_first_frame :
    (mixedFrames mixing (mixing.port 0) (((blockSamples mixing.par (mixing.port 0)).take 2).map
      (ldF32 mixing.par [(0x10002800, 0x3F), (0x10002804, 0xBE), (0x10002805, 0x80)]))).head? =
    some ((0x3F000000#32, 0xBE800000#32), [0x3F000000#32, 0xBE800000#32, 0, 0, 0, 0, 0, 0]) := by decide +kernel

/-- The second sample read of that block (R192) and its second zero write (R199). -/
theorem test_mix_steps :
    next (engineStep { mixing with
        eng := { mixing.eng with mixBuf := [0x3F000000] }
        mem := [(0x10002800, 0x3F), (0x10002804, 0xBE), (0x10002805, 0x80)] })
      (fun t => t.eng.mixBuf == [0x3F000000, 0xBE800000]) = true ∧
    next (engineStep { mixing with
        eng := { mixing.eng with mixZeroing := true, mixPos := 1 }
        mem := [(0x10002800, 0x3F), (0x10002804, 0xBE), (0x10002805, 0x80)] })
      (fun t => t.mem == [(0x10002800, 0x3F)]) = true := by decide +kernel

/-- NOTIFY at port `i`, a read position on its way to memory or none. -/
def notifying (i : Nat) (word : Option Nat) : State :=
  { board with eng := { board.eng with phase := .notify, notifyAt := i, notifyWord := word } }

/-- NT2's kind: port 0 with tag 13 of 8 blocks publishes 6; the cycle-done event carries the cycle. -/
theorem test_notify :
    next (engineStep (notifying 0 none)) (fun t =>
      (t.port 0).tag == 14#64 && (t.port 0).lastServicedCounter == 13#64 && t.eng.notifyWord == some 6) = true ∧
    next (engineStep (notifying 0 (some 6))) (fun t => t.mem == [(0x00F00007, 6)] && t.eng.notifyAt == 1) = true ∧
    next (engineStep (notifying 8 none)) (fun t => t.outputs == [.cycleDone 13] && t.eng.phase == .idle) = true := by
  decide +kernel

/-- Q5: CONVERT with a full queue holds; Q7: a stop in HOLD finalizes. -/
theorem test_hold :
    next (engineStep (full (inPhase live .convert))) (fun t => gstateWord t == 0x43#32) = true ∧
    next (engineStep (requestStop (full (inPhase live .hold)))) (fun t =>
      gstateWord t == 0x9#32 && qstatWord t == 0x10000020#32) = true := by decide

/-- LC5: the consumer pops the sentinel. -/
theorem test_pop_sentinel :
    next (step (turn { live with out := { live.out with sent := true } } .pop)) (fun t =>
      t.outputs == [.sentinel] && qstatWord t == 0#32) = true := by decide

/-- R218, R219: 31392 and −8192 as bytes, and 0.5 as a float's. -/
theorem test_slot_bytes :
    slotBytes Params.reference [.pcm16 0x7AA0#16, .pcm16 0xE000#16, .float 0x3F000000#32] =
      [0xA0, 0x7A, 0x00, 0xE0, 0x00, 0x00, 0x00, 0x3F] := by decide

/-! ### Witnesses: states that meet the hypotheses of the statements, clause by clause -/

/-- The invariant holds at the board: ports open and started, RUNNING, a cycle count. -/
theorem board_inv : Inv board where
  params := by decide
  ports := ⟨rfl, by decide, rfl⟩
  life := ⟨by decide, by decide, by decide, by decide, rfl, by decide, by decide, by decide⟩
  engine := .of_idle (by simp [board, live, configured, State.reset, Engine.reset])
    (by simp [board, live, configured, State.reset, Engine.reset])
    (by simp [board, live, configured, State.reset, Engine.reset]) rfl rfl rfl
  out := ⟨by simp [board, live, configured, State.reset, OutPath.reset],
    by simp [board, live, configured, State.reset, OutPath.reset], by decide, by decide, by decide,
    by decide⟩
  regs := ⟨by decide, by decide, by decide, by decide⟩
  memory := ⟨by decide, by decide⟩

/-- The invariant holds at the board in each phase of a cycle. -/
theorem board_phase_inv (ph : Phase) : Inv (inPhase board ph) :=
  have h := board_inv
  { params := h.params
    ports := ⟨h.ports.1, h.ports.2, h.ports.3⟩
    life := ⟨h.life.1, h.life.2, h.life.3, h.life.4, h.life.5, h.life.6, fun _ => rfl, h.life.8⟩
    engine := .of_idle h.engine.1 h.engine.2 h.engine.3 rfl rfl rfl
    out := ⟨h.out.1, h.out.2, h.out.3, h.out.4, h.out.5, h.out.6⟩
    regs := ⟨h.regs.1, h.regs.2, h.regs.3, h.regs.4⟩
    memory := ⟨h.memory.1, h.memory.2⟩ }

/-- A finalized block whose sentinel is not popped, with QUIT holding. -/
def finished (sent : Bool) : State :=
  { latched live 2 0 0 0 0 with
    life := { live.life with running := false, finalized := true, quitPending := true }
    out := { live.out with sent := sent } }

theorem finished_inv (sent : Bool) : Inv (finished sent) where
  params := by cases sent <;> decide
  ports := ⟨rfl, by cases sent <;> decide, rfl⟩
  life := ⟨by cases sent <;> decide, by cases sent <;> decide, by cases sent <;> decide,
    by cases sent <;> decide, rfl, fun _ => rfl, by cases sent <;> decide, by cases sent <;> decide⟩
  engine := .of_idle (by simp [finished, latched, live, configured, State.reset, Engine.reset])
    (by simp [finished, latched, live, configured, State.reset, Engine.reset])
    (by simp [finished, latched, live, configured, State.reset, Engine.reset]) rfl rfl rfl
  out := ⟨by simp [finished, latched, live, configured, State.reset, OutPath.reset],
    by simp [finished, latched, live, configured, State.reset, OutPath.reset], Nat.two_pos,
    by simp [inRingOrder, finished, live, configured, State.reset, OutPath.reset],
    by cases sent <;> decide, fun _ _ => rfl⟩
  regs := ⟨by cases sent <;> decide, by cases sent <;> decide, by cases sent <;> decide,
    by cases sent <;> decide⟩
  memory := ⟨by cases sent <;> decide, by cases sent <;> decide⟩

/-- DecodeFollowsItsCases: RSVD = 1, OP = 0x15, ADD_DATA, INIT with port 1, and PORT_CLOSE p255. -/
theorem witness_decode_cases :
    (latched board 0x00010001 0 0 0 0).regs.cmdl.word = (1#16 ++ 0#8 ++ 0x01#8 : BitVec 32) ∧
    (latched board 0x00000915 0 0 0 0).regs.cmdl.word = (0#16 ++ 9#8 ++ 0x15#8 : BitVec 32) ∧
    (latched board 0x00000030 0 0 0 0).regs.cmdl.word = (0#16 ++ 0#8 ++ 0x30#8 : BitVec 32) ∧
    (latched board 0x00000101 0 0 0 0).regs.cmdl.word = (0#16 ++ 1#8 ++ 0x01#8 : BitVec 32) ∧
    (latched board 0x0000FF11 0 0 0 0).regs.cmdl.word = (0#16 ++ 255#8 ++ 0x11#8 : BitVec 32) := by decide

/-- StepRunsLatchedCommand, IllegalWordCompletes. -/
theorem witness_command_runs :
    CommandRuns (latched board 0x12 0 0 0 0) ∧
    decode (latched board 0x12 0 0 0 0).regs.cmdl.word = .command (.portStart 0) ∧
    CommandRuns (latched board 0x15 0 0 0 0) ∧
    decode (latched board 0x15 0 0 0 0).regs.cmdl.word = .illegal .unknownOpcode := by decide

/-- CommandsAndCyclesExclude: a command in IDLE; QUIT in HOLD; a command in HOLD and in MIX; QUIT holding in IDLE; steps
with no command latched, in CONVERT and in NOTIFY. -/
theorem witness_commands_and_cycles :
    (AmxMoves (latched board 0x12 0 0 0 0) ∧ (latched board 0x12 0 0 0 0).regs.busy = true ∧
      (latched board 0x12 0 0 0 0).life.quitPending = false ∧ (latched board 0x12 0 0 0 0).eng.phase = .idle) ∧
    (AmxMoves (inPhase (latched board 2 0 0 0 0) .hold) ∧
      decode (inPhase (latched board 2 0 0 0 0) .hold).regs.cmdl.word = .command .quit) ∧
    (AmxMoves (inPhase (latched board 0x12 0 0 0 0) .hold) ∧
      decode (inPhase (latched board 0x12 0 0 0 0) .hold).regs.cmdl.word ≠ .command .quit) ∧
    (AmxMoves (finished true) ∧ (finished true).regs.busy = true ∧ (finished true).life.quitPending = true ∧
      (finished true).eng.phase = .idle ∧ quitMayComplete (finished true) = false) ∧
    board.regs.busy = false ∧ currentTurn board ≠ .setReset true ∧
    (∃ t, engineStep (inPhase board .convert) = .next t) ∧
    (∀ ph, Inv (inPhase board ph)) ∧ (∃ t, step (inPhase board .convert) = .next t) ∧
    (∃ t, step (inPhase board .notify) = .next t) := by
  refine ⟨by decide, by decide, by decide, by decide, rfl, by decide, ⟨_, rfl⟩, board_phase_inv, ⟨_, rfl⟩, _, rfl⟩

/-- InitFollowsItsRule: already initialized; started; playback sink failed; capture sink failed. -/
theorem witness_init :
    board.life.initialized = true ∧
    (configured.life.initialized = false ∧ configured.inputs.sinkOk = true ∧
      (configured.regs.cfgOut.getLsbD 1 = true → configured.inputs.captureOk = true)) ∧
    ({ configured with inputs := { configured.inputs with sinkOk := false } } : State).inputs.sinkOk = false ∧
    ({ configured with
        regs := { configured.regs with cfgOut := 2 }
        inputs := { configured.inputs with captureOk := false } } : State).regs.cfgOut.getLsbD 1 = true := by
  decide

/-- QuitFollowsItsRule: not initialized; running; finalized with the sentinel; finalized without it; held. -/
theorem witness_quit :
    configured.life.initialized = false ∧
    (board.life.initialized = true ∧ board.life.finalized = false) ∧
    ((finished true).life.initialized = true ∧ (finished true).life.finalized = true ∧
      (finished true).out.sent = true) ∧
    ((finished false).life.initialized = true ∧ (finished false).life.finalized = true ∧
      (finished false).out.sent = false) ∧
    (AmxMoves (finished false) ∧ (finished false).regs.busy = true ∧ (finished false).life.quitPending = true ∧
      decode (finished false).regs.cmdl.word = .command .quit) := by decide

/-- Every port open. -/
def crowded : State := { board with ports := List.replicate 8 (mkPort 0 2 8 false 0) }

/-- PortOpenFollowsItsRule: channels 4, blockCount 0 and 17; a full table; the lowest Closed port 2, with blockCount 1
and 16. -/
theorem witness_portOpen :
    board.ports.length = board.par.portCount ∧ crowded.ports.length = crowded.par.portCount ∧
    configured.life.initialized = false ∧ board.life.initialized = true ∧
    (latched board 0x10 4 4 0 0).regs.cmdl.arg.a0 ∉ [2#32, 6#32, 8#32] ∧
    (latched board 0x10 2 0 0 0).regs.cmdl.arg.a1 = 0 ∧
    16 < (latched board 0x10 2 17 0 0).regs.cmdl.arg.a1.toNat ∧
    (∀ i < crowded.par.portCount, (crowded.port i).opened = true) ∧
    ((latched board 0x10 8 1 0 0).port 2).opened = false ∧
    (∀ j < 2, ((latched board 0x10 8 16 0 0).port j).opened = true) ∧
    (latched board 0x10 8 16 0 0).regs.cmdl.arg.a1.toNat ≤ 16 ∧ board.par.initlevelMask = 0x00001000#32 := by
  decide

/-- ClosedPortIsReused, at the last port. -/
theorem witness_reuse :
    (latched crowded 0x10 2 1 0 0).par.portCount ≤ 256 ∧
    (latched crowded 0x10 2 1 0 0).ports.length = (latched crowded 0x10 2 1 0 0).par.portCount ∧
    (latched crowded 0x10 2 1 0 0).life.initialized = true ∧ 7 < (latched crowded 0x10 2 1 0 0).par.portCount ∧
    (∀ j ≤ 7, ((latched crowded 0x10 2 1 0 0).port j).opened = true) ∧
    openOperandsOk (latched crowded 0x10 2 1 0 0).regs.cmdl.arg.a0
      (latched crowded 0x10 2 1 0 0).regs.cmdl.arg.a1 = true := by decide

/-- The statements about the commands with a port: not initialized; port 8, the first beyond the table; port 6 Closed;
port 1 Opened; ports 0 and 7 Started. -/
theorem witness_port_commands :
    configured.life.initialized = false ∧ board.life.initialized = true ∧ board.par.portCount ≤ 8 ∧
    (6 < board.par.portCount ∧ (board.port 6).opened = false) ∧
    (1 < board.par.portCount ∧ (board.port 1).opened = true ∧ (board.port 1).started = false) ∧
    (0 < board.par.portCount ∧ (board.port 0).opened = true ∧ (board.port 0).started = true) ∧
    (7 < board.par.portCount ∧ (board.port 7).opened = true ∧ (board.port 7).started = true) := by decide

/-- GetPortBlockTagFollowsItsRule, BlockTagIsTheNextOccurrence: block 8 of 8; blocks 7, 5 (the position) and 4. -/
theorem witness_blockTag :
    (board.port 0).blockCount.toNat ≤
      ((latched board 0x22 8 0 0 0).regs.cmdl.arg.a1 ++ (latched board 0x22 8 0 0 0).regs.cmdl.arg.a0 :
        BitVec 64).toNat ∧
    ((latched board 0x22 7 0 0 0).regs.cmdl.arg.a1 ++ (latched board 0x22 7 0 0 0).regs.cmdl.arg.a0 :
      BitVec 64).toNat < (board.port 0).blockCount.toNat ∧
    ((latched board 0x22 4 0 0 0).regs.cmdl.arg.a1 ++ (latched board 0x22 4 0 0 0).regs.cmdl.arg.a0 :
      BitVec 64).toNat < (board.port 0).tag.toNat % (board.port 0).blockCount.toNat ∧
    (board.port 0).tag.toNat + (board.port 0).blockCount.toNat ≤ 2 ^ 64 := by decide

/-- FailedCommandChangesOnlyCmdstat: PORT_START of a Started port. -/
theorem witness_failed_command :
    ∃ t, exec (.portStart 0) (latched board 0x12 0 0 0 0) = .next t ∧
      (latched board 0x12 0 0 0 0).regs.busy = true ∧ t.regs.busy = false ∧ t.regs.status ≠ .ok :=
  ⟨finish .portAlreadyRun (latched board 0x12 0 0 0 0), rfl, rfl, rfl, by decide⟩

/-- EvaluationFollowsItsRule at CD3 and CD4's kind: 13 × 5333 ticks are not due, one more is, with and without PAUSE. -/
theorem witness_evaluation :
    let at_ (now : DWord) (pause : Bool) : State :=
      { board with inputs := { board.inputs with now := now, pause := pause } }
    (AmxMoves board ∧ board.regs.busy = false ∧ board.life.running = true ∧ board.eng.phase = .idle ∧
      board.life.stopReq = false ∧ board.inputs.envStop = false) ∧
    (((at_ 70329 false).inputs.now - (at_ 70329 false).life.startTimestamp).toNat ≤
      (at_ 70329 false).life.cycleCounter.toNat * (at_ 70329 false).par.cycleTicks) ∧
    ((at_ 70330 true).life.cycleCounter.toNat * (at_ 70330 true).par.cycleTicks <
      ((at_ 70330 true).inputs.now - (at_ 70330 true).life.startTimestamp).toNat) := by decide

/-- The board with ENV_STOP = 1. -/
def envStopped : State := { board with inputs := { board.inputs with envStop := true } }

/-- StopFinalizes: not RUNNING; a stop request in HOLD; ENV_STOP in IDLE. -/
theorem witness_stop :
    (configured.life.running = false ∧ configured.eng.phase = .idle) ∧
    (AmxMoves (requestStop (inPhase board .hold)) ∧ commandReady (requestStop (inPhase board .hold)) = false ∧
      (requestStop (inPhase board .hold)).life.running = true ∧
      (requestStop (inPhase board .hold)).life.stopReq = true) ∧
    (AmxMoves envStopped ∧ commandReady envStopped = false ∧ envStopped.eng.phase = .idle ∧
      envStopped.life.running = true ∧ envStopped.inputs.envStop = true) := by decide

/-- `n` zero writes of the block of port 0 are done. -/
def zeroing (n : Nat) : State := { mixing with eng := { mixing.eng with mixZeroing := true, mixPos := n } }

/-- `n` samples of the block of port 0 are read. -/
def reading (n : Nat) : State := { mixing with eng := { mixing.eng with mixBuf := List.replicate n 0x3F800000 } }

/-- MixStepsAreTheLoop, MixTakesAStartedPort. -/
theorem witness_mix :
    Memory.wf mixing.mem ∧ mixing.eng.phase = .mix ∧ mixing.eng.mixPort = 0 ∧ mixing.eng.mixBuf = [] ∧
    mixing.eng.mixZeroing = false ∧ mixing.eng.mixPort < mixing.par.portCount ∧
    (mixing.port mixing.eng.mixPort).started = true := by decide

/-- ZeroWritesTakeTheBlock: the last zero write of the block, and the step after it. -/
theorem witness_zeroing : ∀ n ∈ [511, 512],
    Memory.wf (zeroing n).mem ∧ (zeroing n).eng.phase = .mix ∧
    (zeroing n).eng.mixPort < (zeroing n).par.portCount ∧
    ((zeroing n).port (zeroing n).eng.mixPort).started = true ∧ (zeroing n).eng.mixZeroing = true ∧
    (zeroing n).eng.mixPos = n ∧ ((zeroing n).port (zeroing n).eng.mixPort).channels.toNat * 256 = 512 := by
  decide

/-- ReadsStopAtForbiddenMemory: the last sample read of the block. -/
theorem witness_reading :
    (reading 511).eng.phase = .mix ∧ (reading 511).eng.mixPort < (reading 511).par.portCount ∧
    ((reading 511).port (reading 511).eng.mixPort).started = true ∧ (reading 511).eng.mixZeroing = false ∧
    (reading 511).eng.mixBuf.length < ((reading 511).port (reading 511).eng.mixPort).channels.toNat * 256 :=
  ⟨rfl, by decide, rfl, rfl, by rw [reading, List.length_replicate]; decide⟩

/-- The board's platform backs every address. -/
theorem board_backed : FullyBacked board := fun a h => by
  have h32 : a < 4294967296 := h
  simp [memKind, board, live, configured, State.reset, wholeSpace, rangeHolds, h32]

/-- MixTakesAStartedPort, ReadsStopAtForbiddenMemory: the block of port 0 is plain memory; with no memory map the
engine is stuck at the block's first byte, and refused there with a device behind it. -/
theorem witness_mix_memory :
    (∀ a, a < 2 ^ mixing.par.addrWidth → memKind mixing.memMap a = some .plain) ∧
    stopOf (engineStep { mixing with memMap := [] }) = some (.inl (.memoryUnbacked 0x10002800)) ∧
    stopOf (engineStep { mixing with memMap := [⟨0x10002000, 0x1000, .device⟩] }) =
      some (.inr (.sideEffectMemory 0x10002800)) :=
  ⟨board_backed, by decide +kernel, by decide +kernel⟩

/-- ReadsStopAtForbiddenMemory: port 7, the last one, in NOTIFY before its entry is advanced and before its word is
written; with only port 0's word backed that write is stuck, and port 0's goes on. -/
theorem witness_index_write :
    (∀ w ∈ [none, some 6], (notifying 7 w).eng.phase = .notify ∧
      (notifying 7 w).eng.notifyAt < (notifying 7 w).par.portCount ∧
      ((notifying 7 w).port (notifying 7 w).eng.notifyAt).started = true) ∧
    stopOf (engineStep { notifying 7 (some 6) with memMap := [⟨0x00F00000, 8, .plain⟩] }) =
      some (.inl (.memoryUnbacked 0x00F00038)) ∧
    stopOf (engineStep { notifying 0 (some 6) with memMap := [⟨0x00F00000, 8, .plain⟩] }) = none ∧
    stopOf (engineStep { notifying 7 (some 6) with memMap := [⟨0x00F00000, 64, .device⟩] }) =
      some (.inr (.sideEffectMemory 0x00F00038)) :=
  ⟨by decide, by decide +kernel, by decide +kernel, by decide +kernel⟩

/-- IdleCycleIsSilent: MIX with ports open and none Started. -/
theorem witness_idle_cycle :
    (inPhase crowded .mix).par.wf ∧ (inPhase crowded .mix).eng.phase = .mix ∧
    (inPhase crowded .mix).eng.mixPort = 0 ∧ (inPhase crowded .mix).eng.anyActive = false ∧
    ∀ i < (inPhase crowded .mix).par.portCount, ((inPhase crowded .mix).port i).started = false := by decide

/-- GainCorners, DownmixProperty, ArithmeticRoundsToNearest, NaNResultsAreAnyNaN: a finite value that is not a NaN, the
largest one; an infinity; a NaN; finite results, one of them at a tie (1.0 + 2^-24, as near to 1.0 + 2^-23); an exact
zero sum; infinities of equal and of opposite signs; and the midpoint above the largest finite value, as a sum and as a product. -/
theorem witness_floats :
    f32IsNaN 0x7F7FFFFF#32 = false ∧ f32IsFinite 0x7F7FFFFF#32 = true ∧ f32IsFinite 0x80000001#32 = true ∧
    f32IsInf 0xFF800000#32 = true ∧ f32IsNaN 0x7F800001#32 = true ∧
    f32IsFinite (fadd 0 0x3F800000#32 0x33800000#32) = true ∧
    f32IsFinite (fmul 0 0x3F333333#32 0x3F000000#32) = true ∧
    |f32Int 0x3F800000#32 + f32Int 0x33800000#32 - f32Int (fadd 0 0x3F800000#32 0x33800000#32)| =
      |f32Int 0x3F800000#32 + f32Int 0x33800000#32 - f32Int 0x3F800001#32| ∧
    f32Int 0x3F800001#32 ≠ f32Int (fadd 0 0x3F800000#32 0x33800000#32) ∧
    f32Int 0x3F800000#32 + f32Int 0xBF800000#32 = 0 ∧
    f32IsInf 0x7F800000#32 = true ∧ (0x7F800000#32).msb ≠ (0xFF800000#32).msb ∧ f32IsNaN 0x00000001#32 = false ∧
    (2 ^ 25 - 1) * 2 ^ 252 ≤ f32Int 0x7F7FFFFF#32 + f32Int 0x73000000#32 ∧
    f32Int 0xFF7FFFFF#32 + f32Int 0xF3000000#32 ≤ -((2 ^ 25 - 1) * 2 ^ 252) ∧
    (2 ^ 25 - 1) * 2 ^ 252 * 2 ^ 149 ≤ f32Int 0x7F7FFFFF#32 * f32Int 0x40000000#32 ∧
    f32Int 0xFF7FFFFF#32 * f32Int 0x40000000#32 ≤ -((2 ^ 25 - 1) * 2 ^ 252 * 2 ^ 149) := by decide +kernel

/-- Conv16RoundsAndSaturates, ClippingProperty: the reference parameters; the value just above 32766.5 / 32768, and
32766.5 / 32768 itself. -/
theorem witness_conv16 :
    Params.reference.pcm16Scale = 0x47000000#32 ∧ Params.reference.pcm16Min = -32768 ∧
    f32IsFinite 0x3F7FFD01#32 = true ∧ 65533 * 2 ^ 148 < f32Int 0x3F7FFD01#32 * 2 ^ 15 ∧
    f32Int 0x3F7FFD00#32 * 2 ^ 15 = 65533 * 2 ^ 148 ∧ f32IsInf 0xFF800000#32 = true ∧
    f32IsNaN 0x7FC00000#32 = true := by decide +kernel

/-- CONVERT of a slot's last cycle. -/
def lastMix : State := { inPhase board .convert with out := { board.out with wmix := 1 } }

/-- ConvertAppends: the output path's invariant in CONVERT with a full queue, at the first cycle of a slot, and at its
last. -/
theorem witness_convert :
    (OutInv (full (inPhase board .convert)) ∧ (full (inPhase board .convert)).out.wmix = 0 ∧
      (full (inPhase board .convert)).out.q.length = 32) ∧
    OutInv (inPhase board .convert) ∧ ¬((inPhase board .convert).out.wmix = 0 ∧
      (inPhase board .convert).out.q.length = 32) ∧
    OutInv lastMix ∧ lastMix.out.wmix + 1 = lastMix.par.slotMixes := by
  have h := board_inv.out
  exact ⟨⟨⟨h.slots, h.samples, h.wmix, by decide, by decide, by decide⟩, rfl, by decide⟩,
    ⟨h.slots, h.samples, h.wmix, h.ring, h.begun, h.drained⟩, by decide,
    ⟨h.slots, h.samples, by decide, h.ring, fun _ => by decide, h.drained⟩, rfl⟩

/-- HoldFollowsItsRule: a full queue in CONVERT and in HOLD, and a free slot in HOLD. -/
theorem witness_hold :
    ((full (inPhase board .convert)).eng.phase = .convert ∧ (full (inPhase board .convert)).out.wmix = 0 ∧
      32 ≤ (full (inPhase board .convert)).out.q.length) ∧
    ((full (inPhase board .hold)).eng.phase = .hold ∧ (full (inPhase board .hold)).life.stopReq = false ∧
      (full (inPhase board .hold)).inputs.envStop = false ∧ 32 ≤ (full (inPhase board .hold)).out.q.length) ∧
    ((inPhase board .hold).eng.phase = .hold ∧ (inPhase board .hold).out.q.length < 32) := by decide

/-- PopDeliversInOrder: a queued slot, the sentinel, and nothing. -/
theorem witness_pop :
    currentTurn (turn (full board) .pop) = .pop ∧
    (turn (full board) .pop).out.q = (0 : Fin 32) :: (List.finRange 32).tail ∧
    (turn (finished true) .pop).out.q = [] ∧ (turn (finished true) .pop).out.sent = true ∧
    (turn board .pop).out.q = [] ∧ (turn board .pop).out.sent = false := by decide

/-- SlotBytesAreSerialised. -/
theorem witness_slot_bytes : Params.reference.outBigEndian = false := rfl

/-- NotifyAdvancesMixedPorts: ports 0 and 7 of the board in NOTIFY. -/
theorem witness_notify :
    let s := inPhase board .notify
    Memory.wf s.mem ∧ s.ports.length = s.par.portCount ∧ s.eng.phase = .notify ∧
    s.eng.notifyAt = 0 ∧ s.eng.notifyWord = none ∧
    (∀ i < 8, (s.port i).started = true → 1 ≤ (s.port i).blockCount.toNat ∧
      (s.port i).readIndexAddress.toNat + 8 ≤ 2 ^ s.par.addrWidth ∧
      ∀ j < 8, memKind s.memMap ((s.port i).readIndexAddress.toNat + j) = some .plain) ∧
    (∀ i j : Fin 8, (s.port i).started = true → (s.port j).started = true → i ≠ j →
      (s.port i).readIndexAddress.toNat + 8 ≤ (s.port j).readIndexAddress.toNat ∨
      (s.port j).readIndexAddress.toNat + 8 ≤ (s.port i).readIndexAddress.toNat) := by
  refine ⟨by decide, rfl, rfl, rfl, rfl, ?_, ?_⟩ <;> decide

/-- PositionFollowsTheTag: no wrap; a wrap with 16 blocks; a wrap with 3, where the position jumps. -/
theorem witness_position :
    1 ≤ (mkPort 0 2 16 true 13).blockCount.toNat ∧ (mkPort 0 2 16 true 13).tag.toNat + 1 < 2 ^ 64 ∧
    (mkPort 0 2 16 true 0xFFFFFFFFFFFFFFFF#64).blockCount.toNat ∣ 2 ^ 64 ∧
    ¬((mkPort 0 2 3 true 0xFFFFFFFFFFFFFFFF#64).blockCount.toNat ∣ 2 ^ 64) := by decide

/-- RawCaptureIsFrameMajor: the end of NOTIFY, without capture and with it. -/
theorem witness_capture :
    (EngineInv (notifying 8 none) ∧ (notifying 8 none).eng.phase = .notify ∧
      (notifying 8 none).par.portCount ≤ (notifying 8 none).eng.notifyAt) ∧
    board.regs.cfgOut.getLsbD 1 = false ∧
    ({ board with regs := { board.regs with cfgOut := 3 } } : State).regs.cfgOut.getLsbD 1 = true :=
  have h := board_inv.engine
  ⟨⟨.of_idle h.acc2 h.acc8 h.acc8Frames rfl rfl rfl, rfl, by decide⟩, rfl, rfl⟩

/-- CmdWriteFollowsItsRule: read, accepted, and dropped. -/
theorem witness_cmd_write :
    (currentTurn (turn board (.hostRead 0x00 32)) = .hostRead 0x00 32 ∧
      (turn board (.hostRead 0x00 32)).inputs.resetIn = false) ∧
    (currentTurn (turn board (.hostWrite 0x00 32 0x12)) = .hostWrite 0x00 32 0x12 ∧
      (turn board (.hostWrite 0x00 32 0x12)).inputs.resetIn = false ∧
      (turn board (.hostWrite 0x00 32 0x12)).regs.busy = false) ∧
    (turn (latched board 0x12 0 0 0 0) (.hostWrite 0x00 32 0x13)).regs.busy = true := by decide

/-- BusErrorsChangeNothing: a 16-bit read, an unaligned write, the gap at 0x38, and the offset past the last register. -/
theorem witness_bus_error :
    (turn board (.hostRead 0x00 16)).inputs.resetIn = false ∧
    currentTurn (turn board (.hostRead 0x00 16)) = .hostRead 0x00 16 ∧
    currentTurn (turn board (.hostWrite 0x01 32 0)) = .hostWrite 0x01 32 0 ∧
    (∀ off ∈ ([0x01, 0x38, 0x64, 0xFC] : List (BitVec 8)),
      off ∉ ([0x00, 0x04, 0x08, 0x0C, 0x10, 0x14, 0x18, 0x1C, 0x20, 0x24, 0x28, 0x2C, 0x30, 0x34, 0x40, 0x44,
        0x48, 0x50, 0x54, 0x58, 0x5C, 0x60] : List (BitVec 8))) := by decide

/-- RegisterReadsFollowTheMap, RegisterWritesFollowTheMap: every listed offset is one that a turn can name; and both
values of INITIALIZED. -/
theorem witness_register_access :
    (∀ off ∈ ([0x00, 0x04, 0x08, 0x0C, 0x10, 0x14, 0x18, 0x1C, 0x20, 0x24, 0x28, 0x2C, 0x30, 0x34, 0x40, 0x44,
        0x48, 0x50, 0x54, 0x58, 0x5C, 0x60] : List (BitVec 8)),
      currentTurn (turn board (.hostRead off 32)) = .hostRead off 32 ∧
      currentTurn (turn board (.hostWrite off 32 0x200)) = .hostWrite off 32 0x200) ∧
    board.inputs.resetIn = false ∧ board.life.initialized = true ∧ configured.life.initialized = false := by decide

/-- StatusWordsShowTheirFields, with the queue at its capacity. -/
theorem witness_status_words : (full board).out.q.length ≤ 32 ∧ (full board).out.wmix < 256 := by decide

/-- HardResetFollowsItsRule: reset asserted; and AMX, a read and a write under reset. -/
theorem witness_hard_reset :
    let s : State := { board with inputs := { board.inputs with resetIn := true } }
    currentTurn (turn board (.setReset true)) = .setReset true ∧ s.inputs.resetIn = true ∧
    currentTurn s = .amx ∧ currentTurn (turn s (.hostRead 0 32)) = .hostRead 0 32 ∧
    currentTurn (turn s (.hostWrite 0 32 1)) = .hostWrite 0 32 1 := by decide

/-- StepKeepsInv, TagLaw, CounterLaw, FlagLaw, LifecycleFollowsItsStates, QueuedSlotsAreOwnedByTheConsumer: the invariant
and a step that answers a next state. -/
theorem witness_step : Inv board ∧ (∃ t, step board = .next t) ∧ currentTurn board ≠ .setReset true :=
  ⟨board_inv, ⟨_, rfl⟩, by decide⟩

/-- FullyBackedNeverStops. -/
theorem witness_backed : FullyBacked board := board_backed

/-- SentinelIsPushedOnce: a finalized block, a step of AMX's, the pop of the sentinel, and the step after it. -/
theorem witness_sentinel :
    (Inv (finished false) ∧ (∃ t, step (finished false) = .next t) ∧ AmxMoves (finished false) ∧
      (finished false).life.quitPending = true ∧ (finished false).out.sent = false) ∧
    Inv (finished true) ∧ (finished true).life.finalized = true ∧ (∃ t, step (finished true) = .next t) ∧
    (∃ t, step (turn (finished true) .pop) = .next t ∧ t.out.sent = false) :=
  ⟨⟨finished_inv false, ⟨_, rfl⟩, by decide⟩, finished_inv true, rfl, ⟨_, rfl⟩, _, rfl, rfl⟩

/-- MemoryLaw: steps that change a byte: a producer's write, the last zero write of port 0's block, port 7's
read-index write. -/
theorem witness_memory :
    (∃ t, step (turn board (.produce 0x10000000 [0x3F])) = .next t ∧
      memGet t.mem 0x10000000 ≠ memGet board.mem 0x10000000) ∧
    (Memory.wf board.mem ∧ ([0x3F] : List Byte).length ≤ 2 ^ board.par.addrWidth) ∧
    next (step { zeroing 511 with mem := [(0x10002FFF, 1)] }) (fun t => memGet t.mem 0x10002FFF == 0) = true ∧
    next (step (notifying 7 (some 6))) (fun t => memGet t.mem 0x00F0003F == 6) = true :=
  ⟨⟨_, rfl, by decide⟩, by decide, by decide +kernel, by decide +kernel⟩

/-- FlagLaw: OVERRUN set by a dropped write, cleared by the host; ports opened, started, stopped and closed by their
commands, and closed by a stop. -/
theorem witness_flags :
    next (step (turn (latched board 0x12 0 0 0 0) (.hostWrite 0x00 32 0x13))) (fun t => t.regs.overrun) = true ∧
    next (step (turn { board with regs := { board.regs with overrun := true } } (.hostWrite 0x04 32 0x200)))
      (fun t => !t.regs.overrun) = true ∧
    next (step (latched board 0x112 0 0 0 0)) (fun t => (t.port 1).started && !t.regs.busy) = true ∧
    next (step (latched board 0x10 2 8 0 0)) (fun t => (t.port 2).opened) = true ∧
    next (step (latched board 0x13 0 0 0 0)) (fun t => !(t.port 0).started) = true ∧
    next (step (latched board 0x11 0 0 0 0)) (fun t => !(t.port 0).opened && !(t.port 0).started) = true ∧
    next (step (requestStop board)) (fun t => !(t.port 0).opened && !(t.port 0).started) = true := by decide

/-- LifecycleFollowsItsStates: INIT from the configured state; a failed INIT; QUIT while running; a QUIT that
completes; and a stop. -/
theorem witness_lifecycle :
    next (step { latched configured 1 0 0 0 0 with inputs := { configured.inputs with sinkOk := false } })
      (fun t => !t.life.running && t.life.finalized && t.life.sinkFail) = true ∧
    next (step (latched board 2 0 0 0 0)) (fun t => t.life.stopping && t.life.running) = true ∧
    next (step (latched configured 1 0 0 0 0)) (fun t => t.life.initialized) = true ∧
    next (step (finished false)) (fun t => !t.life.initialized) = true ∧
    next (step (requestStop board)) (fun t => !t.life.running && t.life.finalized && t.out.sent) = true := by decide

/-- TagLaw, CounterLaw: NOTIFY advances a tag; PORT_OPEN clears one; a due evaluation counts. -/
theorem witness_counters :
    next (step (notifying 0 none)) (fun t => (t.port 0).tag == 14#64) = true ∧
    next (step (latched { board with ports := [{ mkPort 0 2 8 false 9 with opened := false }] } 0x10 2 8 0 0))
      (fun t => (t.port 0).tag == 0#64) = true ∧
    next (step { board with inputs := { board.inputs with now := 70330 } })
      (fun t => t.life.cycleCounter == 14#64) = true := by decide +kernel

end Sys2Proof.Tests
end

/-! PROOFS. binary32 arithmetic (00_scope.md R10, 44_mixer.md R193): O29, O31, O32.

The 31 bits below the sign of a binary32 value, read as a number, list the magnitudes in ascending order
(`magnitudeUnits_strictMono`).  Rounding is then one fact about an ascending sequence: `f32Round` takes the
index whose magnitude is nearest to the exact one, the even index at a tie (`roundedMagnitude_isNearestEven`).
Nearest values, the overflow threshold and the exactness of gain 1.0 all follow from it. -/

namespace Sys2Proof.Machine

/-! ### The nearest entry of an ascending sequence -/

/-- `f m` is an entry of the sequence `f` nearest to `n`; where another entry is as near, `m` is even. -/
def IsNearestEven (f : Nat → Nat) (n m : Nat) : Prop :=
  ∀ c, |(n : Int) - f m| ≤ |(n : Int) - f c| ∧
    (|(n : Int) - f m| = |(n : Int) - f c| → c ≠ m → m % 2 = 0)

/-- Of the two entries around `n`, the nearer one, or the even one at the midpoint, is nearest of all. -/
theorem isNearestEven_of_between {f : Nat → Nat} (hf : StrictMono f) {n j : Nat} (lower : f j ≤ n)
    (upper : n ≤ f (j + 1)) {m : Nat}
    (choice : m = j ∧ 2 * n ≤ f j + f (j + 1) ∧ (2 * n = f j + f (j + 1) → j % 2 = 0) ∨
      m = j + 1 ∧ f j + f (j + 1) ≤ 2 * n ∧ (2 * n = f j + f (j + 1) → j % 2 = 1)) :
    IsNearestEven f n m := by
  intro c
  simp only [Int.abs_eq_natAbs]
  have below : c < j → f c < f j := fun h => hf h
  have above : j + 1 < c → f (j + 1) < f c := fun h => hf h
  have cases_c : c < j ∨ c = j ∨ c = j + 1 ∨ j + 1 < c := by omega
  obtain ⟨rfl, near, tie⟩ | ⟨rfl, near, tie⟩ := choice <;>
    obtain h | rfl | rfl | h := cases_c <;> omega

/-- An entry of the sequence is its own nearest entry. -/
theorem IsNearestEven.eq_of_entry {f : Nat → Nat} (hf : StrictMono f) {i m : Nat}
    (h : IsNearestEven f (f i) m) : m = i := by
  have nearest := (h i).1
  apply hf.injective
  simp only [Int.abs_eq_natAbs] at nearest
  omega

/-- The nearest entry lies beyond an odd index `j` exactly from the midpoint after `f j` on. -/
theorem IsNearestEven.le_iff_lt_midpoint {f : Nat → Nat} (hf : StrictMono f) {n m j : Nat}
    (h : IsNearestEven f n m) (odd : j % 2 = 1) : m ≤ j ↔ 2 * n < f j + f (j + 1) := by
  have gap : f j < f (j + 1) := hf (Nat.lt_succ_self j)
  constructor
  · intro hm
    have le : f m ≤ f j := hf.monotone hm
    have lt : m ≠ j → f m < f j := fun ne => hf (by omega)
    have nearest := h (j + 1)
    simp only [Int.abs_eq_natAbs] at nearest
    omega
  · intro hn
    by_contra hm
    have le : f (j + 1) ≤ f m := hf.monotone (by omega)
    have nearest := (h j).1
    simp only [Int.abs_eq_natAbs] at nearest
    omega

/-! ### Signed integers -/

/-- A sign and a magnitude as an integer. -/
def signedInt (negative : Bool) (n : Nat) : Int := if negative then -(n : Int) else n

@[simp] theorem natAbs_signedInt (s : Bool) (n : Nat) : (signedInt s n).natAbs = n := by
  cases s <;> simp [signedInt]

theorem abs_signedInt (s : Bool) (n : Nat) : |signedInt s n| = n := by
  rw [Int.abs_eq_natAbs, natAbs_signedInt]

theorem signedInt_mul (s t : Bool) (m n : Nat) :
    signedInt s m * signedInt t n = signedInt (s != t) (m * n) := by
  cases s <;> cases t <;> simp [signedInt]

/-- Of all entries under either sign, one under `n`'s own is nearest, as the sequence begins with 0. -/
theorem IsNearestEven.signed {f : Nat → Nat} (zero : f 0 = 0) {n m : Nat} (h : IsNearestEven f n m)
    (s t : Bool) (c : Nat) :
    |signedInt s n - signedInt s (f m)| ≤ |signedInt s n - signedInt t (f c)| ∧
      (|signedInt s n - signedInt s (f m)| = |signedInt s n - signedInt t (f c)| →
        signedInt t (f c) ≠ signedInt s (f m) → m % 2 = 0) := by
  have nearest := h c
  have nearestZero := h 0
  have same : c = m → f c = f m := congrArg f
  simp only [Int.abs_eq_natAbs, zero] at *
  obtain rfl | rfl : t = s ∨ t = !s := Bool.eq_or_eq_not t s
  case inl => cases t <;> simp only [signedInt, Bool.false_eq_true, if_true, if_false] <;> omega
  case inr =>
    -- An entry under the other sign is no nearer than 0, and as near only when it is 0.
    cases s <;> simp only [signedInt, Bool.not_true, Bool.not_false, Bool.false_eq_true, if_true, if_false] <;> omega

/-! ### Magnitudes in ascending order -/

/-- The 31 bits below the sign. -/
def f32Magnitude (x : F32) : Nat := x.toNat % 2 ^ 31

/-- The units of 2^-149 of the magnitude with the bits `m`; the sequence goes on above the finite ones. -/
def magnitudeUnits (m : Nat) : Nat :=
  if m / 2 ^ 23 = 0 then m % 2 ^ 23 else (2 ^ 23 + m % 2 ^ 23) <<< (m / 2 ^ 23 - 1)

theorem f32Exp_eq (x : F32) : f32Exp x = f32Magnitude x / 2 ^ 23 := by
  unfold f32Exp f32Magnitude; omega

theorem f32Frac_eq (x : F32) : f32Frac x = f32Magnitude x % 2 ^ 23 := by
  unfold f32Frac f32Magnitude; omega

theorem f32Units_eq (x : F32) : f32Units x = magnitudeUnits (f32Magnitude x) := by
  rw [f32Units, f32Exp_eq, f32Frac_eq, magnitudeUnits]

theorem f32Int_eq (x : F32) : f32Int x = signedInt x.msb (f32Units x) := rfl

theorem f32Magnitude_lt (x : F32) : f32Magnitude x < 2 ^ 31 := Nat.mod_lt _ (by decide)

theorem f32IsFinite_iff (x : F32) : f32IsFinite x = true ↔ f32Magnitude x < 0x7F800000 := by
  have := f32Magnitude_lt x
  simp only [f32IsFinite, f32Exp_eq, bne_iff_ne]; omega

theorem f32IsInf_iff (x : F32) : f32IsInf x = true ↔ f32Magnitude x = 0x7F800000 := by
  have := f32Magnitude_lt x
  simp only [f32IsInf, f32Exp_eq, f32Frac_eq, Bool.and_eq_true, beq_iff_eq]; omega

theorem f32IsNaN_iff (x : F32) : f32IsNaN x = true ↔ 0x7F800000 < f32Magnitude x := by
  have := f32Magnitude_lt x
  simp only [f32IsNaN, f32Exp_eq, f32Frac_eq, Bool.and_eq_true, beq_iff_eq, bne_iff_ne]; omega

/-- Within one binade, and in the subnormal one, magnitudes are equally spaced; the binade's end is included. -/
theorem magnitudeUnits_binade {e q : Nat} (hq : q ≤ 2 ^ 24) (normal : 2 ^ 23 ≤ q ∨ e = 0) :
    magnitudeUnits (e * 2 ^ 23 + q) = q * 2 ^ e := by
  unfold magnitudeUnits
  obtain small | middle | rfl : q < 2 ^ 23 ∨ (2 ^ 23 ≤ q ∧ q < 2 ^ 24) ∨ q = 2 ^ 24 := by omega
  · obtain rfl : e = 0 := by omega
    rw [if_pos (by omega)]; omega
  · have exponent : (e * 2 ^ 23 + q) / 2 ^ 23 = e + 1 := by omega
    have significand : 2 ^ 23 + (e * 2 ^ 23 + q) % 2 ^ 23 = q := by omega
    rw [exponent, significand, if_neg (by omega), Nat.shiftLeft_eq, Nat.add_sub_cancel]
  · have exponent : (e * 2 ^ 23 + 2 ^ 24) / 2 ^ 23 = e + 2 := by omega
    have significand : 2 ^ 23 + (e * 2 ^ 23 + 2 ^ 24) % 2 ^ 23 = 2 ^ 23 := by omega
    rw [exponent, significand, if_neg (by omega), Nat.shiftLeft_eq]
    have : 2 ^ (e + 2 - 1) = 2 * 2 ^ e := by rw [← Nat.pow_succ']; rfl
    omega

theorem magnitudeUnits_strictMono : StrictMono magnitudeUnits := by
  refine strictMono_nat_of_lt_succ fun j => ?_
  obtain ⟨e, q, rfl, hq, normal⟩ : ∃ e q, j = e * 2 ^ 23 + q ∧ q < 2 ^ 24 ∧ (2 ^ 23 ≤ q ∨ e = 0) :=
    ⟨j / 2 ^ 23 - 1, j - (j / 2 ^ 23 - 1) * 2 ^ 23, by omega, by omega, by omega⟩
  rw [Nat.add_assoc, magnitudeUnits_binade (by omega) normal, magnitudeUnits_binade (by omega) (by omega)]
  exact Nat.mul_lt_mul_of_pos_right (by omega) (by positivity)

@[simp] theorem magnitudeUnits_zero : magnitudeUnits 0 = 0 := rfl

/-- The magnitudes in units of 2^-(149+d). -/
def scaledUnits (d m : Nat) : Nat := magnitudeUnits m * 2 ^ d

theorem scaledUnits_strictMono (d : Nat) : StrictMono (scaledUnits d) := fun _ _ h =>
  Nat.mul_lt_mul_of_pos_right (magnitudeUnits_strictMono h) (by positivity)

@[simp] theorem scaledUnits_zero (d : Nat) : scaledUnits d 0 = 0 := by simp [scaledUnits]

/-! ### Rounding -/

/-- The number of low bits that `f32Round` drops. -/
def roundShift (d n : Nat) : Nat := max (Nat.log2 n - 23) d

/-- The magnitude that `f32Round` packs, before an overflow is cut off at the infinity. -/
def roundedMagnitude (d n : Nat) : Nat := (roundShift d n - d) * 2 ^ 23 + rneShift n (roundShift d n)

theorem f32Round_eq (sign : Bool) (d n : Nat) : f32Round sign d n =
    f32Pack sign (if roundedMagnitude d n ≥ 0x7F800000 then 0x7F800000 else roundedMagnitude d n) := rfl

theorem rneShift_cases (n k : Nat) :
    rneShift n k = n / 2 ^ k ∧ 2 * (n % 2 ^ k) ≤ 2 ^ k ∧ (2 * (n % 2 ^ k) = 2 ^ k → n / 2 ^ k % 2 = 0) ∨
    rneShift n k = n / 2 ^ k + 1 ∧ 2 ^ k ≤ 2 * (n % 2 ^ k) ∧
      (2 * (n % 2 ^ k) = 2 ^ k → n / 2 ^ k % 2 = 1) := by
  simp only [rneShift, Nat.shiftRight_eq_div_pow]
  split <;> omega

theorem div_roundShift_lt (d n : Nat) : n / 2 ^ roundShift d n < 2 ^ 24 := by
  rw [Nat.div_lt_iff_lt_mul (by positivity), ← Nat.pow_add]
  exact Nat.lt_log2_self.trans_le (Nat.pow_le_pow_right (by decide) (by unfold roundShift; omega))

theorem div_roundShift_normal (d n : Nat) : 2 ^ 23 ≤ n / 2 ^ roundShift d n ∨ roundShift d n - d = 0 := by
  by_cases h : roundShift d n - d = 0
  · exact .inr h
  · have shift : n.log2 = 23 + roundShift d n := by unfold roundShift at *; omega
    rw [Nat.le_div_iff_mul_le (by positivity), ← Nat.pow_add, ← shift]
    exact .inl (Nat.log2_self_le (by rintro rfl; simp at shift; omega))

/-- R10: rounding takes the nearest magnitude, the even one at a tie. -/
theorem roundedMagnitude_isNearestEven (d n : Nat) :
    IsNearestEven (scaledUnits d) n (roundedMagnitude d n) := by
  have small := div_roundShift_lt d n
  have normal := div_roundShift_normal d n
  have choice := rneShift_cases n (roundShift d n)
  have split := Nat.div_add_mod' n (2 ^ roundShift d n)
  have rest : n % 2 ^ roundShift d n < 2 ^ roundShift d n := Nat.mod_lt _ (by positivity)
  have scale : 2 ^ roundShift d n = 2 ^ (roundShift d n - d) * 2 ^ d := by
    rw [← Nat.pow_add, Nat.sub_add_cancel (show d ≤ roundShift d n from Nat.le_max_right _ _)]
  unfold roundedMagnitude
  generalize n / 2 ^ roundShift d n = q at *
  generalize roundShift d n - d = e at *
  have lower : scaledUnits d (e * 2 ^ 23 + q) = q * 2 ^ roundShift d n := by
    rw [scaledUnits, magnitudeUnits_binade (by omega) normal, Nat.mul_assoc, scale]
  have upper : scaledUnits d (e * 2 ^ 23 + q + 1) = q * 2 ^ roundShift d n + 2 ^ roundShift d n := by
    rw [scaledUnits, Nat.add_assoc, magnitudeUnits_binade (by omega) (by omega), Nat.mul_assoc, ← scale,
      Nat.succ_mul]
  refine isNearestEven_of_between (scaledUnits_strictMono d) (j := e * 2 ^ 23 + q) (by omega) (by omega) ?_
  rw [lower, upper]
  obtain ⟨down, near, tie⟩ | ⟨up, near, tie⟩ := choice
  · exact .inl (by omega)
  · exact .inr (by omega)

/-- R10: the rounded magnitude is finite exactly below the midpoint between the largest finite value and 2^128. -/
theorem roundedMagnitude_lt_iff (d n : Nat) :
    roundedMagnitude d n < 0x7F800000 ↔ n < (2 ^ 25 - 1) * 2 ^ 252 * 2 ^ d := by
  have midpoint := (roundedMagnitude_isNearestEven d n).le_iff_lt_midpoint (scaledUnits_strictMono d)
    (j := 0x7F7FFFFF) (by decide)
  have largest : scaledUnits d 0x7F7FFFFF = (2 ^ 24 - 1) * 2 ^ 253 * 2 ^ d := rfl
  have next : scaledUnits d (0x7F7FFFFF + 1) = 2 ^ 24 * 2 ^ 253 * 2 ^ d := rfl
  rw [largest, next] at midpoint
  generalize 2 ^ d = scale at *
  omega

@[simp] theorem roundedMagnitude_scaledUnits (d i : Nat) : roundedMagnitude d (scaledUnits d i) = i :=
  (roundedMagnitude_isNearestEven d _).eq_of_entry (scaledUnits_strictMono d)

/-! ### Packing a sign and a magnitude -/

section Pack
variable {sign : Bool} {m : Nat}

theorem f32Pack_toNat (h : m < 2 ^ 31) : (f32Pack sign m).toNat = (if sign then 2 ^ 31 else 0) + m := by
  rw [f32Pack, BitVec.toNat_ofNat, Nat.mod_eq_of_lt]
  split <;> omega

theorem f32Magnitude_f32Pack (h : m < 2 ^ 31) : f32Magnitude (f32Pack sign m) = m := by
  rw [f32Magnitude, f32Pack_toNat h]
  split <;> omega

theorem msb_f32Pack (h : m < 2 ^ 31) : (f32Pack sign m).msb = sign := by
  rw [BitVec.msb_eq_decide, f32Pack_toNat h]
  cases sign
  · simpa using h
  · simp

end Pack

theorem f32Pack_msb_magnitude (x : F32) : f32Pack x.msb (f32Magnitude x) = x := by
  apply BitVec.eq_of_toNat_eq
  rw [f32Pack_toNat (f32Magnitude_lt x), f32Magnitude, BitVec.msb_eq_decide]
  simp only [decide_eq_true_eq]
  split <;> omega

theorem f32Inf_msb {x : F32} (h : f32IsInf x = true) : f32Inf x.msb = x := by
  rw [f32Inf, ← (f32IsInf_iff x).mp h, f32Pack_msb_magnitude]

/-! ### `f32Round` -/

section Round
variable (sign : Bool) (d n : Nat)

theorem f32Round_of_lt (h : n < (2 ^ 25 - 1) * 2 ^ 252 * 2 ^ d) :
    f32Round sign d n = f32Pack sign (roundedMagnitude d n) := by
  rw [f32Round_eq, if_neg (by have := (roundedMagnitude_lt_iff d n).mpr h; omega)]

theorem f32Round_of_ge (h : (2 ^ 25 - 1) * 2 ^ 252 * 2 ^ d ≤ n) : f32Round sign d n = f32Inf sign := by
  rw [f32Round_eq, if_pos (by have := (roundedMagnitude_lt_iff d n).mp; omega), f32Inf]

theorem msb_f32Round : (f32Round sign d n).msb = sign := by
  rw [f32Round_eq]
  exact msb_f32Pack (by split <;> omega)

theorem f32IsFinite_f32Round :
    f32IsFinite (f32Round sign d n) = true ↔ n < (2 ^ 25 - 1) * 2 ^ 252 * 2 ^ d := by
  rw [f32IsFinite_iff, f32Round_eq, f32Magnitude_f32Pack (by split <;> omega), ← roundedMagnitude_lt_iff]
  split <;> omega

theorem f32Round_zero : f32Round sign d 0 = f32Pack sign 0 := by
  have zero := roundedMagnitude_scaledUnits d 0
  rw [scaledUnits_zero] at zero
  rw [f32Round_of_lt sign d 0 (by positivity), zero]

end Round

/-- A finite value that needs no rounding is kept. -/
theorem f32Round_f32Units {x : F32} (d : Nat) (h : f32IsFinite x = true) :
    f32Round x.msb d (f32Units x * 2 ^ d) = x := by
  have exact : roundedMagnitude d (f32Units x * 2 ^ d) = f32Magnitude x := by
    rw [f32Units_eq]; exact roundedMagnitude_scaledUnits d _
  have finite := (f32IsFinite_iff x).mp h
  rw [f32Round_eq, exact, if_neg (by omega), f32Pack_msb_magnitude]

theorem f32Int_mul_two_pow (x : F32) (d : Nat) :
    f32Int x * 2 ^ d = signedInt x.msb (scaledUnits d (f32Magnitude x)) := by
  rw [f32Int_eq, f32Units_eq]
  cases x.msb <;> simp [signedInt, scaledUnits]

theorem getLsbD_zero_eq_false_iff (x : F32) : x.getLsbD 0 = false ↔ f32Magnitude x % 2 = 0 := by
  rw [BitVec.getLsbD, Nat.testBit_zero, decide_eq_false_iff_not, f32Magnitude]
  omega

/-- R10 for one result: `r` is the exact value `t`, in units of 2^-(149+d), rounded to nearest, ties to even. -/
def RoundsToNearest (d : Nat) (t : Int) (r : F32) : Prop :=
  (f32IsFinite r = true → ∀ c : F32, f32IsFinite c = true →
    |t - f32Int r * 2 ^ d| ≤ |t - f32Int c * 2 ^ d| ∧
    (|t - f32Int r * 2 ^ d| = |t - f32Int c * 2 ^ d| → f32Int c ≠ f32Int r → r.getLsbD 0 = false)) ∧
  (f32IsFinite r = true ↔ |t| < (2 ^ 25 - 1) * 2 ^ 252 * 2 ^ d) ∧
  ((2 ^ 25 - 1) * 2 ^ 252 * 2 ^ d ≤ t → r = 0x7F800000#32) ∧
  (t ≤ -((2 ^ 25 - 1) * 2 ^ 252 * 2 ^ d) → r = 0xFF800000#32)

theorem f32Round_nearest (sign : Bool) (d n : Nat) (finite : f32IsFinite (f32Round sign d n) = true) (c : F32) :
    |signedInt sign n - f32Int (f32Round sign d n) * 2 ^ d| ≤ |signedInt sign n - f32Int c * 2 ^ d| ∧
    (|signedInt sign n - f32Int (f32Round sign d n) * 2 ^ d| = |signedInt sign n - f32Int c * 2 ^ d| →
      f32Int c ≠ f32Int (f32Round sign d n) → (f32Round sign d n).getLsbD 0 = false) := by
  have small := (f32IsFinite_f32Round sign d n).mp finite
  have magnitude : f32Magnitude (f32Round sign d n) = roundedMagnitude d n := by
    rw [f32Round_of_lt sign d n small,
      f32Magnitude_f32Pack (((roundedMagnitude_lt_iff d n).mpr small).trans (by decide))]
  have value : f32Int (f32Round sign d n) * 2 ^ d = signedInt sign (scaledUnits d (roundedMagnitude d n)) := by
    rw [f32Int_mul_two_pow, msb_f32Round, magnitude]
  have nearest := (roundedMagnitude_isNearestEven d n).signed (scaledUnits_zero d) sign c.msb (f32Magnitude c)
  rw [← value, ← f32Int_mul_two_pow] at nearest
  rw [getLsbD_zero_eq_false_iff, magnitude]
  exact ⟨nearest.1, fun tie ne => nearest.2 tie fun same => ne (mul_right_cancel₀ (by positivity) same)⟩

theorem f32Round_roundsToNearest (sign : Bool) (d n : Nat) :
    RoundsToNearest d (signedInt sign n) (f32Round sign d n) := by
  have finite := f32IsFinite_f32Round sign d n
  have overflow := f32Round_of_ge sign d n
  have positive : 0 < (2 ^ 25 - 1) * 2 ^ 252 * 2 ^ d := by positivity
  have cast : (2 ^ 25 - 1) * 2 ^ 252 * 2 ^ d = (((2 ^ 25 - 1) * 2 ^ 252 * 2 ^ d : Nat) : Int) := by
    push_cast; rfl
  rw [RoundsToNearest, abs_signedInt, cast]
  generalize (2 ^ 25 - 1) * 2 ^ 252 * 2 ^ d = limit at *
  refine ⟨fun h c _ => f32Round_nearest sign d n h c, finite.trans Nat.cast_lt.symm, ?_⟩
  cases sign <;> simp only [signedInt, Bool.false_eq_true, if_true, if_false]
  · exact ⟨fun above => overflow (by omega), fun below => by omega⟩
  · exact ⟨fun above => by omega, fun below => overflow (by omega)⟩

/-! ### NaNs -/

theorem f32Frac_eq_extract (x : F32) : f32Frac x = (x.extractLsb' 0 23).toNat := by
  rw [BitVec.extractLsb'_toNat, Nat.shiftRight_zero, f32Frac]

theorem f32Exp_eq_extract (x : F32) : f32Exp x = (x.extractLsb' 23 8).toNat := by
  rw [BitVec.extractLsb'_toNat, Nat.shiftRight_eq_div_pow, f32Exp]

/-- A NaN has an exponent field of ones and a payload that is not zero. -/
theorem f32IsNaN_iff_fields (x : F32) : f32IsNaN x = true ↔
    x.extractLsb' 23 8 = BitVec.allOnes 8 ∧ x.extractLsb' 0 23 ≠ 0#23 := by
  simp only [f32IsNaN, f32Exp_eq_extract, f32Frac_eq_extract, Bool.and_eq_true, beq_iff_eq, bne_iff_ne, ne_eq,
    ← BitVec.toNat_inj]
  rfl

/-- The payload that `nanFrom` tests is the fraction field. -/
theorem and_fraction_eq_zero_iff (x : Word) : x &&& 0x007FFFFF#32 = 0 ↔ x.extractLsb' 0 23 = 0#23 := by
  rw [← BitVec.toNat_inj, ← BitVec.toNat_inj, ← f32Frac_eq_extract, BitVec.toNat_and]
  exact (Nat.and_two_pow_sub_one_eq_mod x.toNat 23).congr_left

theorem f32IsNaN_or (bits : Word) {ones : Word} (exponent : ones.extractLsb' 23 8 = BitVec.allOnes 8)
    (payload : bits.extractLsb' 0 23 ≠ 0#23 ∨ ones.extractLsb' 0 23 ≠ 0#23) :
    f32IsNaN (bits ||| ones) = true := by
  rw [f32IsNaN_iff_fields, BitVec.extractLsb'_or, BitVec.extractLsb'_or, exponent, BitVec.or_allOnes, ne_eq,
    BitVec.or_eq_zero_iff, Classical.not_and_iff_not_or_not]
  exact ⟨rfl, payload⟩

theorem f32IsNaN_nanFrom (bits : Word) : f32IsNaN (nanFrom bits) = true := by
  unfold nanFrom
  split
  · exact f32IsNaN_or bits (by decide) (.inr (by decide))
  · next payload => exact f32IsNaN_or bits (by decide) (.inl (mt (and_fraction_eq_zero_iff bits).mpr payload))

theorem or_exponent_of_ones {x : Word} (h : x.extractLsb' 23 8 = BitVec.allOnes 8) : x ||| 0x7F800000#32 = x := by
  have inField : ∀ i < 32, (0x7F800000#32).getLsbD i = true → 23 ≤ i ∧ i < 31 := by decide
  refine BitVec.eq_of_getLsbD_eq fun i hi => ?_
  rw [BitVec.getLsbD_or, Bool.or_eq_left_iff_imp]
  intro one
  obtain ⟨low, high⟩ := inField i hi one
  have bit : (x.extractLsb' 23 8).getLsbD (i - 23) = true := by
    rw [h, BitVec.getLsbD_allOnes, decide_eq_true_eq]; omega
  rw [BitVec.getLsbD_extractLsb', Nat.add_sub_cancel' low] at bit
  exact (Bool.and_eq_true_iff.mp bit).2

theorem nanFrom_of_isNaN {v : F32} (h : f32IsNaN v = true) : nanFrom v = v := by
  obtain ⟨exponent, payload⟩ := (f32IsNaN_iff_fields v).mp h
  rw [nanFrom, if_neg (mt (and_fraction_eq_zero_iff v).mp payload), or_exponent_of_ones exponent]

/-- Settles O32: every NaN is what its own bits deliver. -/
theorem nanResultsAreAnyNaN : Obligations.NaNResultsAreAnyNaN :=
  ⟨f32IsNaN_nanFrom, fun v h => ⟨v, nanFrom_of_isNaN h⟩⟩

@[simp] theorem f32IsNaN_nanDraw (k : Nat) : f32IsNaN (nanDraw k) = true := f32IsNaN_nanFrom _

/-! ### Classes of values -/

section Classes
variable {x : F32}

theorem f32IsNaN_of_isInf (h : f32IsInf x = true) : f32IsNaN x = false := by
  rw [← Bool.not_eq_true, f32IsNaN_iff, (f32IsInf_iff x).mp h]; decide

theorem f32IsFinite_of_isInf (h : f32IsInf x = true) : f32IsFinite x = false := by
  rw [← Bool.not_eq_true, f32IsFinite_iff, (f32IsInf_iff x).mp h]; decide

theorem f32IsNaN_of_isFinite (h : f32IsFinite x = true) : f32IsNaN x = false := by
  rw [f32IsFinite_iff] at h
  rw [← Bool.not_eq_true, f32IsNaN_iff]; omega

theorem f32IsInf_of_isFinite (h : f32IsFinite x = true) : f32IsInf x = false := by
  rw [f32IsFinite_iff] at h
  rw [← Bool.not_eq_true, f32IsInf_iff]; omega

theorem f32IsInf_or_isFinite (h : f32IsNaN x = false) : f32IsInf x = true ∨ f32IsFinite x = true := by
  rw [← Bool.not_eq_true, f32IsNaN_iff] at h
  rw [f32IsInf_iff, f32IsFinite_iff]; omega

end Classes

theorem f32Units_eq_zero_iff (x : F32) : f32Units x = 0 ↔ x = 0x00000000#32 ∨ x = 0x80000000#32 := by
  rw [f32Units_eq, ← magnitudeUnits_zero, magnitudeUnits_strictMono.injective.eq_iff]
  constructor
  · intro zero
    rw [← f32Pack_msb_magnitude x, zero]
    cases x.msb
    · exact .inl rfl
    · exact .inr rfl
  · rintro (rfl | rfl) <;> rfl

theorem f32Units_ne_zero_of_isInf {x : F32} (h : f32IsInf x = true) : f32Units x ≠ 0 := by
  rw [f32Units_eq, (f32IsInf_iff x).mp h]; decide

/-! ### `fadd` and `fmul`, one lemma for each class of operands -/

section Operations
variable (k : Nat) {a b : F32}

theorem fadd_of_nan (h : f32IsNaN a = true ∨ f32IsNaN b = true) : fadd k a b = nanDraw k := by
  rw [fadd, if_pos (by simpa using h)]

theorem fmul_of_nan (h : f32IsNaN a = true ∨ f32IsNaN b = true) : fmul k a b = nanDraw k := by
  rw [fmul, if_pos (by simpa using h)]

theorem fadd_inf_finite (ha : f32IsInf a = true) (hb : f32IsFinite b = true) : fadd k a b = a := by
  simp [fadd, ha, f32IsNaN_of_isInf ha, f32IsNaN_of_isFinite hb, f32IsInf_of_isFinite hb]

theorem fadd_finite_inf (ha : f32IsFinite a = true) (hb : f32IsInf b = true) : fadd k a b = b := by
  simp [fadd, hb, f32IsNaN_of_isInf hb, f32IsNaN_of_isFinite ha, f32IsInf_of_isFinite ha]

theorem fadd_inf_inf (ha : f32IsInf a = true) (hb : f32IsInf b = true) :
    fadd k a b = if a.msb = b.msb then a else nanDraw k := by
  simp [fadd, ha, hb, f32IsNaN_of_isInf, f32Sign]

/-- The sign that an exact zero sum takes is written out in `fadd`; any other sum has its own. -/
theorem fadd_of_finite (ha : f32IsFinite a = true) (hb : f32IsFinite b = true) :
    ∃ sign, fadd k a b = f32Round sign 0 (f32Int a + f32Int b).natAbs ∧
      f32Int a + f32Int b = signedInt sign (f32Int a + f32Int b).natAbs ∧
      (f32Int a + f32Int b = 0 → sign = (a.msb && b.msb)) := by
  simp only [fadd, f32IsNaN_of_isFinite, f32IsInf_of_isFinite, ha, hb, Bool.or_self, Bool.false_eq_true, if_false]
  by_cases zero : f32Int a + f32Int b = 0
  · exact ⟨a.msb && b.msb, by simp [zero, f32Round_zero, f32Sign], by simp [zero, signedInt], fun _ => rfl⟩
  · refine ⟨decide (f32Int a + f32Int b < 0), if_neg zero, ?_, fun h => absurd h zero⟩
    simp only [signedInt, decide_eq_true_eq]
    split <;> omega

theorem fmul_inf_left (ha : f32IsInf a = true) (hb : f32IsNaN b = false) :
    fmul k a b = if f32Units b = 0 then nanDraw k else f32Inf (a.msb != b.msb) := by
  obtain h | h := f32IsInf_or_isFinite hb
  · simp [fmul, ha, hb, f32IsNaN_of_isInf ha, f32IsFinite_of_isInf h, f32Units_ne_zero_of_isInf h, f32Sign]
  · simp [fmul, ha, hb, f32IsNaN_of_isInf ha, h, f32Sign]

theorem fmul_inf_right (ha : f32IsInf a = true) (hb : f32IsNaN b = false) :
    fmul k b a = if f32Units b = 0 then nanDraw k else f32Inf (a.msb != b.msb) := by
  rw [bne_comm (a := a.msb)]
  obtain h | h := f32IsInf_or_isFinite hb
  · simp [fmul, hb, h, f32IsNaN_of_isInf ha, f32IsFinite_of_isInf ha, f32Units_ne_zero_of_isInf h, f32Sign]
  · simp [fmul, ha, hb, f32IsNaN_of_isInf ha, f32IsInf_of_isFinite h, f32Sign]

theorem fmul_of_finite (ha : f32IsFinite a = true) (hb : f32IsFinite b = true) :
    fmul k a b = f32Round (a.msb != b.msb) 149 (f32Units a * f32Units b) := by
  simp [fmul, f32IsNaN_of_isFinite, f32IsInf_of_isFinite, ha, hb, f32Sign]

theorem fadd_roundsToNearest (ha : f32IsFinite a = true) (hb : f32IsFinite b = true) :
    RoundsToNearest 0 (f32Int a + f32Int b) (fadd k a b) := by
  obtain ⟨sign, rounded, signed, -⟩ := fadd_of_finite k ha hb
  rw [rounded, signed, natAbs_signedInt]
  exact f32Round_roundsToNearest sign 0 _

theorem fadd_of_sum_zero (ha : f32IsFinite a = true) (hb : f32IsFinite b = true) (zero : f32Int a + f32Int b = 0) :
    fadd k a b = if a.msb && b.msb then 0x80000000#32 else 0x00000000#32 := by
  obtain ⟨sign, rounded, -, signZero⟩ := fadd_of_finite k ha hb
  rw [rounded, zero, Int.natAbs_zero, f32Round_zero, signZero zero]
  cases a.msb && b.msb <;> rfl

theorem fmul_roundsToNearest (ha : f32IsFinite a = true) (hb : f32IsFinite b = true) :
    RoundsToNearest 149 (f32Int a * f32Int b) (fmul k a b) := by
  rw [fmul_of_finite k ha hb, f32Int_eq, f32Int_eq, signedInt_mul]
  exact f32Round_roundsToNearest _ 149 _

theorem msb_fmul (ha : f32IsFinite a = true) (hb : f32IsFinite b = true) :
    (fmul k a b).msb = (a.msb != b.msb) := by
  rw [fmul_of_finite k ha hb, msb_f32Round]

end Operations

/-- The infinity of a product's sign. -/
theorem f32Inf_bne (s t : Bool) : f32Inf (s != t) = if s = t then 0x7F800000#32 else 0xFF800000#32 := by
  cases s <;> cases t <;> rfl

/-! ### The obligations -/

/-- R193: gain 1.0 is exact, as its magnitude is 2^149 units. -/
theorem fmul_one (k : Nat) {x : F32} (h : f32IsNaN x = false) : fmul k x 0x3F800000#32 = x := by
  have sign : (x.msb != (0x3F800000#32).msb) = x.msb := Bool.bne_false _
  obtain inf | finite := f32IsInf_or_isFinite h
  · rw [fmul_inf_left k inf rfl, if_neg (by decide), sign, f32Inf_msb inf]
  · rw [fmul_of_finite k finite rfl, sign]
    exact f32Round_f32Units 149 finite

theorem fmul_zero_of_isFinite (k : Nat) {x : F32} (h : f32IsFinite x = true) :
    fmul k x 0x00000000#32 = if x.msb then 0x80000000#32 else 0x00000000#32 := by
  have units : f32Units x * f32Units 0x00000000#32 = 0 := Nat.mul_zero _
  rw [fmul_of_finite k h rfl, units, f32Round_zero]
  cases x.msb <;> rfl

/-- Settles O29: gain 1.0 is exact, and the other corners are special cases of `fmul`. -/
theorem gainCorners : Obligations.GainCorners := by
  refine ⟨fun k x h => fmul_one k h, fun k x h => fmul_zero_of_isFinite k h, fun k x h => ?_, fun k x g h => ?_⟩
  · rw [fmul_inf_left k h rfl, if_pos (by decide), f32IsNaN_nanDraw]
  · rw [fmul_of_nan k h, f32IsNaN_nanDraw]

/-- Settles O31: both operations round the exact integer result once, by `f32Round_roundsToNearest`. -/
theorem arithmeticRoundsToNearest : Obligations.ArithmeticRoundsToNearest := by
  refine ⟨fun k a b => ⟨fun nan => ?_, fun ha hb => ?_, fun ha hb same => ?_, fun ha hb opposite => ?_,
    fun ha zero => ?_, fun ha hb pos neg => ?_⟩, fun k a b ha hb => ?_⟩
  · rw [fadd_of_nan k nan, fmul_of_nan k nan]
    exact ⟨f32IsNaN_nanDraw k, f32IsNaN_nanDraw k⟩
  · exact ⟨fadd_inf_finite k ha hb, fadd_finite_inf k hb ha⟩
  · rw [fadd_inf_inf k ha hb, if_pos same]
  · rw [fadd_inf_inf k ha hb, if_neg opposite, f32IsNaN_nanDraw]
  · have hb : f32IsNaN b = false := by obtain rfl | rfl := zero <;> rfl
    have units := (f32Units_eq_zero_iff b).mpr zero
    rw [fmul_inf_left k ha hb, fmul_inf_right k ha hb, if_pos units]
    exact ⟨f32IsNaN_nanDraw k, f32IsNaN_nanDraw k⟩
  · have units : f32Units b ≠ 0 := fun zero => ((f32Units_eq_zero_iff b).mp zero).elim pos neg
    rw [fmul_inf_left k ha hb, fmul_inf_right k ha hb, if_neg units, f32Inf_bne]
    exact ⟨rfl, rfl⟩
  · have sum := fadd_roundsToNearest k ha hb
    simp only [RoundsToNearest, pow_zero, mul_one] at sum
    obtain ⟨sumNearest, sumFinite, sumAbove, sumBelow⟩ := sum
    obtain ⟨productNearest, productFinite, productAbove, productBelow⟩ := fmul_roundsToNearest k ha hb
    exact ⟨sumNearest, sumFinite, sumAbove, sumBelow, fadd_of_sum_zero k ha hb,
      productNearest, productFinite, productAbove, productBelow, msb_fmul k ha hb⟩

end Sys2Proof.Machine

/-! PROOFS. What a command does and leaves alone (10_state.md R27, R28, 20_memory.md R70, 30_encoding.md R94): O23.

`Executed` lists once what each command comes to, so that later proofs about commands go through its cases. -/

namespace Sys2Proof.Machine

variable {s t : State} {i : Instr}

/-! ### Every command answers a next state -/

theorem whenInit_next {body : Result} (h : ∃ t, body = .next t) : ∃ t, whenInit s body = .next t := by
  unfold whenInit
  split
  · exact h
  · exact ⟨_, rfl⟩

theorem ite_next {c : Prop} [Decidable c] {a b : Result} (ha : ∃ t, a = .next t) (hb : ∃ t, b = .next t) :
    ∃ t, (if c then a else b) = .next t := by
  split
  · exact ha
  · exact hb

theorem withPort_next {p : Nat} {body : Port → Result} (h : ∀ e, ∃ t, body e = .next t) :
    ∃ t, withPort p s body = .next t :=
  whenInit_next (ite_next (h _) ⟨_, rfl⟩)

/-- A command that needs its port open, and one that needs it Started. -/
theorem openPort_next {p : Nat} {body : Port → Result} (h : ∀ e, ∃ t, body e = .next t) :
    ∃ t, (withPort p s fun e => whenOpened e s (body e)) = .next t :=
  withPort_next fun e => ite_next (h e) ⟨_, rfl⟩

theorem startedPort_next {p : Nat} {body : Port → Result} (h : ∀ e, ∃ t, body e = .next t) :
    ∃ t, (withPort p s fun e => whenOpened e s (whenStarted e s (body e))) = .next t :=
  openPort_next fun e => ite_next (h e) ⟨_, rfl⟩

theorem execPortOpen_next (s : State) : ∃ t, execPortOpen s = .next t := by
  refine whenInit_next (ite_next ?_ ⟨_, rfl⟩)
  cases firstClosed s with
  | none => exact ⟨_, rfl⟩
  | some i => exact ⟨_, rfl⟩

theorem exec_next (i : Instr) (s : State) : ∃ t, exec i s = .next t := by
  cases i with
  | init => exact ite_next ⟨_, rfl⟩ (ite_next ⟨_, rfl⟩ ⟨_, rfl⟩)
  | quit => exact whenInit_next (ite_next ⟨_, rfl⟩ ⟨_, rfl⟩)
  | portOpen => exact execPortOpen_next s
  | portClose p => exact openPort_next fun _ => ⟨_, rfl⟩
  | portStart p => exact openPort_next fun _ => ite_next ⟨_, rfl⟩ ⟨_, rfl⟩
  | portStop p => exact startedPort_next fun _ => ⟨_, rfl⟩
  | setPortLevel p => exact startedPort_next fun _ => ⟨_, rfl⟩
  | getPortConfig p => exact withPort_next fun _ => ⟨_, rfl⟩
  | getPortTimestamp p => exact startedPort_next fun _ => ⟨_, rfl⟩
  | getPortBlockTag p => exact openPort_next fun _ => ite_next ⟨_, rfl⟩ ⟨_, rfl⟩
  | addData p => exact ⟨_, rfl⟩

/-! ### When a command runs -/

/-- When a command may run (R114, R120, R174): a holding QUIT that may complete, any command in IDLE, QUIT in HOLD. -/
theorem commandReady_cases (h : commandReady s = true) :
    s.regs.busy = true ∧
    ((s.life.quitPending = true ∧ quitMayComplete s = true) ∨
      (s.life.quitPending = false ∧
        (s.eng.phase = .idle ∨ (s.eng.phase = .hold ∧ decode s.regs.cmdl.word = .command .quit)))) := by
  unfold commandReady at h
  rw [Bool.and_eq_true] at h
  obtain ⟨busy, h⟩ := h
  refine ⟨busy, ?_⟩
  split at h
  · next pending => exact .inl ⟨pending, h⟩
  · next free => exact .inr ⟨Bool.eq_false_of_not_eq_true free, by simpa [latchedQuit] using h⟩

/-! ### What each command comes to -/

/-- `r'` has the results of `r` but for the first `n` (R94). -/
structure SameBeyond (n : Nat) (r r' : Results) : Prop where
  r0 : n ≤ 0 → r'.r0 = r.r0
  r1 : n ≤ 1 → r'.r1 = r.r1
  rest : n ≤ 2 → r'.r2 = r.r2 ∧ r'.r3 = r.r3 ∧ r'.r4 = r.r4 ∧ r'.r5 = r.r5

theorem SameBeyond.of_eq {n : Nat} {r r' : Results} (h : r' = r) : SameBeyond n r r' := by
  subst h
  exact ⟨fun _ => rfl, fun _ => rfl, fun _ => ⟨rfl, rfl, rfl, rfl⟩⟩

/-- The outcomes of a command: turned away, which QUIT is only when there is no lifetime to end, or what it does when
its checks pass. -/
inductive Executed (s : State) : Instr → State → Prop
  | turnedAway {i : Instr} {t : State} : TurnedAway s t → (i = .quit → s.life.initialized = false) →
      Executed s i t
  | initFailed : s.life.initialized = false → sinkOpenFailed s = true →
      Executed s .init (finish .ok (finalize (initialState s)))
  | initRunning : s.life.initialized = false → sinkOpenFailed s = false →
      Executed s .init (finish .ok (initialState s).startRunning)
  | quitCompletes : s.life.initialized = true → quitMayComplete (quitRequested s) = true →
      Executed s .quit (finish .ok (endLifetime (quitRequested s)))
  | quitHolds : s.life.initialized = true → quitMayComplete (quitRequested s) = false →
      Executed s .quit (quitRequested s)
  | opened {p : Nat} : s.life.initialized = true → openOperandsOk (arg0 s) (arg1 s) = true →
      p < s.par.portCount → (s.port p).opened = false →
      Executed s .portOpen (finish .ok
        (((s.setPort p (openedPort s p)).setPortsInUse (s.life.portsInUse + 1)).setRes0 (BitVec.ofNat 32 p)))
  | closed {p : Nat} : s.life.initialized = true → p < s.par.portCount → (s.port p).opened = true →
      Executed s (.portClose p) (finish .ok
        ((s.setPort p (s.port p).close).setPortsInUse (s.life.portsInUse - 1)))
  | started {p : Nat} : s.life.initialized = true → p < s.par.portCount → (s.port p).opened = true →
      (s.port p).started = false →
      Executed s (.portStart p) (finish .ok (s.setPort p ((s.port p).withStarted true)))
  | stopped {p : Nat} : s.life.initialized = true → p < s.par.portCount → (s.port p).opened = true →
      (s.port p).started = true →
      Executed s (.portStop p) (finish .ok (s.setPort p ((s.port p).withStarted false)))
  | level {p : Nat} : s.life.initialized = true → p < s.par.portCount → (s.port p).opened = true →
      (s.port p).started = true →
      Executed s (.setPortLevel p) (finish .ok (s.setPort p ((s.port p).withGain (arg0 s))))
  | answered {i : Instr} {r : Results} : i ≠ .quit → s.life.initialized = true →
      SameBeyond (resWritten i) s.regs.res r → Executed s i (finish .ok (s.setRes r))

theorem exec_cases (h : exec i s = .next t) : Executed s i t := by
  cases i with
  | init =>
    obtain away | ⟨dead, failed, rfl⟩ | ⟨dead, opened, rfl⟩ := execInit_cases h
    exacts [.turnedAway away nofun, .initFailed dead failed, .initRunning dead opened]
  | quit =>
    obtain ⟨dead, rfl⟩ | ⟨initialized, body⟩ := whenInit_cases h
    · exact .turnedAway ⟨_, by simp, by simp, by simp, rfl⟩ fun _ => dead
    · split at body
      · next complete => exact next_inj body ▸ .quitCompletes initialized complete
      · next holds => exact next_inj body ▸ .quitHolds initialized (Bool.eq_false_of_not_eq_true holds)
  | portOpen =>
    obtain away | ⟨initialized, operands, p, first, rfl⟩ := execPortOpen_cases h
    · exact .turnedAway away nofun
    · obtain ⟨hp, closed, -⟩ := firstClosed_eq_some.1 first
      exact .opened initialized operands hp closed
  | portClose p =>
    obtain away | ⟨initialized, hp, opened, rfl⟩ := execPortClose_cases h
    exacts [.turnedAway away nofun, .closed initialized hp opened]
  | portStart p =>
    obtain away | ⟨initialized, hp, opened, stopped, rfl⟩ := execPortStart_cases h
    exacts [.turnedAway away nofun, .started initialized hp opened stopped]
  | portStop p =>
    obtain away | ⟨initialized, hp, opened, started, rfl⟩ := execPortStop_cases h
    exacts [.turnedAway away nofun, .stopped initialized hp opened started]
  | setPortLevel p =>
    obtain away | ⟨initialized, hp, opened, started, rfl⟩ := execSetPortLevel_cases h
    exacts [.turnedAway away nofun, .level initialized hp opened started]
  | getPortConfig p =>
    obtain away | ⟨initialized, -, rfl⟩ := execGetPortConfig_cases h
    · exact .turnedAway away nofun
    · exact .answered nofun initialized ⟨by simp [resWritten], by simp [resWritten], by simp [resWritten]⟩
  | getPortTimestamp p =>
    obtain away | ⟨initialized, -, -, -, rfl⟩ := execGetPortTimestamp_cases h
    · exact .turnedAway away nofun
    · exact .answered nofun initialized
        ⟨by simp [resWritten], by simp [resWritten], fun _ => ⟨rfl, rfl, rfl, rfl⟩⟩
  | getPortBlockTag p =>
    obtain away | ⟨initialized, -, -, -, rfl⟩ := execGetPortBlockTag_cases h
    · exact .turnedAway away nofun
    · exact .answered nofun initialized
        ⟨by simp [resWritten], by simp [resWritten], fun _ => ⟨rfl, rfl, rfl, rfl⟩⟩
  | addData p =>
    obtain rfl := next_inj h
    exact .turnedAway ⟨_, by simp, by simp, by simp, rfl⟩ nofun

/-! ### What commands leave alone -/

/-- The fields that a command may write: what is left is the frame. -/
theorem CommandFrame.of_update (s : State) (status : Status) (busy : Bool) (res : Results) (life : Life)
    (ports : List Port) (phase : Phase) (wslot : Fin 32) (wmix : Nat) (q : List (Fin 32)) (sent : Bool) :
    CommandFrame s { s with
      regs := { s.regs with status := status, busy := busy, res := res }
      life := life
      ports := ports
      eng := { s.eng with phase := phase }
      out := { s.out with wslot := wslot, wmix := wmix, q := q, sent := sent } } := by
  constructor <;> intros <;> rfl

theorem CommandFrame.of_life (s : State) (life : Life) : CommandFrame s { s with life := life } := by
  constructor <;> intros <;> rfl

/-- QUIT marked as holding: the first thing that its execution does (R114). -/
def State.pendQuit (s : State) : State := { s with life := { s.life with quitPending := true } }

theorem quitRequested_eq (s : State) :
    quitRequested s = if s.life.finalized then s.pendQuit else (requestStop s).pendQuit := rfl

/-- QUIT's request writes flags of the lifecycle only. -/
theorem quitRequested_eq_life (s : State) : quitRequested s = { s with life := (quitRequested s).life } := by
  rw [quitRequested_eq]
  split <;> rfl

theorem Executed.frame (h : Executed s i t) : CommandFrame s t := by
  cases h with
  | turnedAway away =>
    obtain ⟨c, -, -, -, rfl⟩ := away
    exact .of_update ..
  | quitCompletes => rw [quitRequested_eq_life]; exact .of_update ..
  | quitHolds => rw [quitRequested_eq_life]; exact .of_life ..
  | initFailed | initRunning | opened | closed | started | stopped | level | answered => exact .of_update ..

/-- A command writes the results of its row of R94 when it completes with OK, and none otherwise. -/
theorem Executed.results (h : Executed s i t) :
    t.regs.res = s.regs.res ∨ (t.regs.status = .ok ∧ SameBeyond (resWritten i) s.regs.res t.regs.res) := by
  cases h with
  | turnedAway away =>
    obtain ⟨c, -, -, -, rfl⟩ := away
    exact .inl rfl
  | quitCompletes => rw [quitRequested_eq_life]; exact .inl rfl
  | quitHolds => rw [quitRequested_eq_life]; exact .inl rfl
  | opened => exact .inr ⟨rfl, by simp [resWritten], fun _ => rfl, fun _ => ⟨rfl, rfl, rfl, rfl⟩⟩
  | answered _ _ same => exact .inr ⟨rfl, same⟩
  | initFailed | initRunning | closed | started | stopped | level => exact .inl rfl

/-- Settles O23: the frame and the results of every outcome of `exec_cases`. -/
theorem commandsTouchOnlyTheirState : Obligations.CommandsTouchOnlyTheirState := by
  intro i s
  obtain ⟨t, ht⟩ := exec_next i s
  have done := exec_cases ht
  have same : SameBeyond (resWritten i) s.regs.res t.regs.res := done.results.elim .of_eq And.right
  refine ⟨t, ht, done.frame, fun _ _ failed => ?_, same.r0, same.r1, same.rest⟩
  exact done.results.elim id fun ⟨ok, _⟩ => absurd ok failed

end Sys2Proof.Machine

/-! PROOFS. The invariant of the machine (10_state.md, 40_lifecycle.md R121, 45_format_output.md R221): O52, O53.

Each part of the invariant looks at a few fields; a lemma for each part says which (`PortsInv.congr`, `LifeInv.of_flags`
and so on).  Then there is one lemma for each operation of the model, and the step is put together from them along the
`_cases` lemmas of Laws/. -/

namespace Sys2Proof.Machine

variable {s t : State}

/-! ### Which fields each part of the invariant looks at -/

theorem PortsInv.congr (h : PortsInv s) (par : t.par = s.par) (ports : t.ports = s.ports)
    (inUse : t.life.portsInUse = s.life.portsInUse) : PortsInv t := by
  obtain ⟨size, each, count⟩ := h
  exact ⟨by rw [ports, par, size], by rwa [ports], by rw [inUse, ports, count]⟩

/-- The flags of the lifecycle, without its counters. -/
def Life.flags (l : Life) : Life := { l with portsInUse := 0, cycleCounter := 0, startTimestamp := 0 }

/-- A step that keeps the lifecycle's flags keeps their invariant, if it makes no sentinel, leaves IDLE only while
RUNNING, and keeps a holding QUIT latched. -/
theorem LifeInv.of_flags (h : LifeInv s) (life : t.life.flags = s.life.flags)
    (sent : t.out.sent = true → s.out.sent = true)
    (phase : t.eng.phase ≠ .idle → s.eng.phase ≠ .idle ∨ s.life.running = true)
    (quit : s.life.quitPending = true → t.regs.busy = s.regs.busy ∧ t.regs.cmdl = s.regs.cmdl) :
    LifeInv t := by
  simp only [Life.flags, Life.mk.injEq] at life
  obtain ⟨initialized, running, stopping, finalized, sinkFail, stopReq, quitPending, -⟩ := life
  constructor
  case alive => rw [initialized, running, finalized]; exact h.alive
  case dead => rw [initialized, running, stopping, finalized, quitPending]; exact h.dead
  case stopping => rw [stopping, running]; exact h.stopping
  case sinkFail => rw [running, sinkFail]; exact h.sinkFail
  case stopReq => rw [stopReq, stopping]; exact h.stopReq
  case sent => rw [finalized]; exact fun hs => h.sent (sent hs)
  case phase => rw [running]; exact fun hp => (phase hp).elim h.phase id
  case quit =>
    rw [quitPending, initialized, finalized, stopReq]
    intro hq
    rw [(quit hq).1, (quit hq).2]
    exact h.quit hq

theorem EngineInv.congr (h : EngineInv s) (par : t.par = s.par) (ports : t.ports = s.ports)
    (eng : t.eng = s.eng) : EngineInv t := by
  obtain ⟨acc2, acc8, frames, outside, underway, extent, publishing⟩ := h
  simp only [← port_congr s ports, ← par, ← eng] at *
  exact ⟨acc2, acc8, frames, outside, underway, extent, publishing⟩

/-- From a phase other than MIX and NOTIFY, a step that works on no block keeps the engine's invariant, whatever it
does to the ports. -/
theorem EngineInv.of_between (h : EngineInv s) (mix : s.eng.phase ≠ .mix) (notify : s.eng.phase ≠ .notify)
    (acc2 : t.eng.acc2 = s.eng.acc2) (acc8 : t.eng.acc8 = s.eng.acc8) (buf : t.eng.mixBuf = s.eng.mixBuf)
    (zeroing : t.eng.mixZeroing = s.eng.mixZeroing) (word : t.eng.notifyWord = s.eng.notifyWord) :
    EngineInv t := by
  obtain ⟨noBuf, noZeroing⟩ := h.outside mix
  exact .of_idle (acc2 ▸ h.acc2) (acc8 ▸ h.acc8) (acc8 ▸ h.acc8Frames) (buf.trans noBuf)
    (zeroing.trans noZeroing) (word.trans (h.no_word notify))

theorem OutInv.congr (h : OutInv s) (par : t.par = s.par) (out : t.out = s.out)
    (initialized : t.life.initialized = s.life.initialized) (finalized : t.life.finalized = s.life.finalized) :
    OutInv t := by
  obtain ⟨slots, samples, wmix, ring, begun, drained⟩ := h
  simp only [← par, ← out, ← initialized, ← finalized] at *
  exact ⟨slots, samples, wmix, ring, begun, drained⟩

theorem RegsInv.congr (h : RegsInv s) (regionBase : t.regs.cfgRegionBase = s.regs.cfgRegionBase)
    (indexBase : t.regs.cfgIndexBase = s.regs.cfgIndexBase) (out : t.regs.cfgOut = s.regs.cfgOut)
    (status : t.regs.status = s.regs.status) : RegsInv t :=
  ⟨regionBase ▸ h.regionBase, indexBase ▸ h.indexBase, out ▸ h.out, status ▸ h.status⟩

theorem MemInv.congr (h : MemInv s) (par : t.par = s.par) (mem : t.mem = s.mem) : MemInv t :=
  ⟨mem ▸ h.canonical, by rw [mem, par]; exact h.space⟩

/-! ### Steps that write one part of the state -/

/-- The work of the cycle engine, on its own fields and on memory; a counter of the lifecycle may go on. -/
theorem Inv.of_engine (h : Inv s) (par : t.par = s.par) (ports : t.ports = s.ports)
    (flags : t.life.flags = s.life.flags) (inUse : t.life.portsInUse = s.life.portsInUse) (regs : t.regs = s.regs)
    (out : t.out = s.out) (phase : t.eng.phase ≠ .idle → s.eng.phase ≠ .idle ∨ s.life.running = true)
    (engine : EngineInv t) (memory : MemInv t) : Inv t where
  params := par ▸ h.params
  ports := h.ports.congr par ports inUse
  life := h.life.of_flags flags (out ▸ id) phase fun _ => ⟨regs ▸ rfl, regs ▸ rfl⟩
  engine := engine
  out :=
    have initialized := congrArg Life.initialized flags
    have finalized := congrArg Life.finalized flags
    h.out.congr par out initialized finalized
  regs := h.regs.congr (regs ▸ rfl) (regs ▸ rfl) (regs ▸ rfl) (regs ▸ rfl)
  memory := memory

/-- A write to registers, which must keep a holding QUIT latched. -/
theorem Inv.of_regs (h : Inv s) {r : Regs} (regs : RegsInv { s with regs := r })
    (quit : s.life.quitPending = true → r.busy = s.regs.busy ∧ r.cmdl = s.regs.cmdl) :
    Inv { s with regs := r } where
  params := h.params
  ports := h.ports.congr rfl rfl rfl
  life := h.life.of_flags rfl id .inl quit
  engine := h.engine.congr rfl rfl rfl
  out := h.out.congr rfl rfl rfl rfl
  regs := regs
  memory := h.memory.congr rfl rfl

/-! ### Reset -/

/-- Every entry of a cleared port table is Closed, with all fields 0. -/
theorem PortsInv.of_cleared (ports : t.ports = List.replicate t.par.portCount Port.zero)
    (inUse : t.life.portsInUse = 0) : PortsInv t := by
  refine ⟨by rw [ports, List.length_replicate], fun e he => ?_, by simp [inUse, ports, List.countP_replicate]⟩
  rw [ports] at he
  exact List.eq_of_mem_replicate he ▸ Port.zero_wf

theorem LifeInv.of_reset (life : t.life = Life.reset) (sent : t.out.sent = false) (phase : t.eng.phase = .idle) :
    LifeInv t := by
  constructor <;> simp [life, sent, phase, Life.reset]

theorem EngineInv.of_reset (eng : t.eng = Engine.reset) : EngineInv t := by
  refine .of_idle ?_ ?_ (fun fr hfr => ?_) (by rw [eng]; rfl) (by rw [eng]; rfl) (by rw [eng]; rfl)
  · simp [eng, Engine.reset]
  · simp [eng, Engine.reset]
  · rw [eng] at hfr
    rw [List.eq_of_mem_replicate hfr, List.length_replicate]

theorem OutInv.of_reset (out : t.out = OutPath.reset t.par) (slotMixes : 0 < t.par.slotMixes) : OutInv t := by
  constructor
  case slots => simp [out, OutPath.reset]
  case samples =>
    intro sl hsl
    rw [out] at hsl
    rw [List.eq_of_mem_replicate hsl, List.length_replicate]
  case wmix => simpa [out, OutPath.reset] using slotMixes
  case ring => rw [out]; exact inRingOrder_nil _
  case begun => simp [out, OutPath.reset]
  case drained => simp [out, OutPath.reset]

theorem RegsInv.of_reset (regs : t.regs = Regs.reset) : RegsInv t := by
  constructor <;> simp [regs, Regs.reset]

/-- A hardware reset re-establishes all of the invariant but what it does not touch: parameters and memory. -/
theorem Inv.hardReset (h : Inv s) : Inv (hardReset s) where
  params := h.params
  ports := .of_cleared rfl rfl
  life := .of_reset rfl rfl rfl
  engine := .of_reset rfl
  out := .of_reset rfl (Nat.zero_lt_of_lt h.out.wmix)
  regs := .of_reset rfl
  memory := h.memory.congr rfl rfl

/-- Settles O52: the reset state is put together from the reset values of its parts. -/
theorem resetMeetsInv : Obligations.ResetMeetsInv where
  params := by decide
  ports := .of_cleared rfl rfl
  life := .of_reset rfl rfl rfl
  engine := .of_reset rfl
  out := .of_reset rfl (by decide)
  regs := .of_reset rfl
  memory := ⟨by decide, by simp [State.reset]⟩

/-! ### finalize() -/

theorem countP_opened_close (l : List Port) : (l.map Port.close).countP Port.opened = 0 := by
  rw [List.countP_eq_zero]
  simp

theorem PortsInv.finalize (h : PortsInv s) : PortsInv (finalize s) := by
  refine ⟨by simpa using h.size, fun e he => ?_, (countP_opened_close _).symm⟩
  obtain ⟨e', -, rfl⟩ := List.mem_map.1 he
  simp [Port.wf]

/-- finalize() ends in FINALIZED, for a block that is initialized, after a holding QUIT too. -/
theorem LifeInv.of_finalize (initialized : s.life.initialized = true)
    (quit : s.life.quitPending = true → s.regs.busy = true ∧ decode s.regs.cmdl.word = .command .quit) :
    LifeInv (finalize s) := by
  constructor <;> simp [initialized]
  exact quit

theorem OutInv.finalize (h : OutInv s) : OutInv (finalize s) where
  slots := h.slots
  samples := h.samples
  wmix := Nat.zero_lt_of_lt h.wmix
  ring := h.ring
  begun := by simp
  drained := by simp

/-- finalize() at a check point, IDLE or HOLD (R115, R116). -/
theorem Inv.finalize (h : Inv s) (initialized : s.life.initialized = true) (mix : s.eng.phase ≠ .mix)
    (notify : s.eng.phase ≠ .notify) : Inv (finalize s) where
  params := h.params
  ports := h.ports.finalize
  life := .of_finalize initialized fun hq => by obtain ⟨busy, -, -, word⟩ := h.life.quit hq; exact ⟨busy, word⟩
  engine := h.engine.of_between mix notify rfl rfl rfl rfl rfl
  out := h.out.finalize
  regs := h.regs.congr rfl rfl rfl rfl
  memory := h.memory.congr rfl rfl

theorem Inv.requestStop (h : Inv s) (running : s.life.running = true) : Inv (requestStop s) where
  params := h.params
  ports := h.ports.congr rfl rfl rfl
  life := by
    obtain ⟨alive, dead, -, sinkFail, -, sent, phase, quit⟩ := h.life
    refine ⟨alive, fun hi => ?_, fun _ => running, sinkFail, rfl, sent, phase, fun hq => ?_⟩
    · have := (dead hi).1
      simp [running] at this
    · obtain ⟨busy, initialized, -, word⟩ := quit hq
      exact ⟨busy, initialized, .inr rfl, word⟩
  engine := h.engine.congr rfl rfl rfl
  out := h.out.congr rfl rfl rfl rfl
  regs := h.regs.congr rfl rfl rfl rfl
  memory := h.memory.congr rfl rfl

/-- A stop that is acted on: only a running block can have one. -/
theorem Inv.stopCheck (h : Inv s) (mix : s.eng.phase ≠ .mix) (notify : s.eng.phase ≠ .notify)
    (hs : stopCheck s = some t) : Inv t := by
  obtain ⟨running, -, rfl⟩ | ⟨stopReq, -, rfl⟩ := stopCheck_cases hs
  · exact (h.requestStop running).finalize (h.initialized_of_running running) mix notify
  · have running := h.life.stopping (h.life.stopReq ▸ stopReq)
    exact h.finalize (h.initialized_of_running running) mix notify

/-! ### Commands -/

theorem Inv.finish (h : Inv s) (quit : s.life.quitPending = false) {c : Status}
    (code : c ≠ .portOpen ∧ c ≠ .eventQueue) : Inv (finish c s) :=
  h.of_regs ⟨h.regs.regionBase, h.regs.indexBase, h.regs.out, code⟩ fun pending => by simp [quit] at pending

theorem Inv.setRes (h : Inv s) (r : Results) : Inv (s.setRes r) :=
  h.of_regs (h.regs.congr rfl rfl rfl rfl) fun _ => ⟨rfl, rfl⟩

theorem PortsInv.setPort (h : PortsInv s) {i : Nat} {e : Port} {n : BitVec 9} (he : e.wf)
    (hn : n.toNat = (s.ports.set i e).countP Port.opened) : PortsInv ((s.setPort i e).setPortsInUse n) :=
  ⟨by simpa using h.size, h.set_wf he, hn⟩

/-- A port command writes one entry, and portsInUse with it, while no block is under way. -/
theorem Inv.setPort (h : Inv s) (idle : s.eng.phase = .idle) {i : Nat} {e : Port} {n : BitVec 9} (he : e.wf)
    (hn : n.toNat = (s.ports.set i e).countP Port.opened) : Inv ((s.setPort i e).setPortsInUse n) where
  params := h.params
  ports := h.ports.setPort he hn
  life := h.life.of_flags rfl id .inl fun _ => ⟨rfl, rfl⟩
  engine := h.engine.of_between (by simp [idle]) (by simp [idle]) rfl rfl rfl rfl rfl
  out := h.out.congr rfl rfl rfl rfl
  regs := h.regs.congr rfl rfl rfl rfl
  memory := h.memory.congr rfl rfl

/-- A port command that neither opens nor closes its port leaves portsInUse alone. -/
theorem Inv.setPort_sameOpened (h : Inv s) (idle : s.eng.phase = .idle) {i : Nat} (hi : i < s.par.portCount)
    {e : Port} (he : e.wf) (opened : e.opened = (s.port i).opened) : Inv (s.setPort i e) := by
  have count := h.ports.inUse_set hi e
  rw [opened] at count
  exact h.setPort idle (n := s.life.portsInUse) he (by rw [h.ports.inUse]; omega)

/-- The entry that PORT_OPEN writes (R130): its operands are checked, and the region and index addresses keep the
alignment of their bases (R74). -/
theorem openedPort_wf (h : Inv s) (operands : openOperandsOk (arg0 s) (arg1 s) = true) (i : Nat) :
    (openedPort s i).wf := by
  obtain ⟨-, -, -, -, -, stride, -⟩ := h.params
  have region := h.regs.regionBase
  have index := h.regs.indexBase
  simp only [openOperandsOk, Bool.and_eq_true, Bool.or_eq_true, beq_iff_eq, decide_eq_true_eq, Config.maxBlocks]
    at operands
  obtain ⟨⟨channels, atLeast⟩, atMost⟩ := operands
  refine ⟨by simp [openedPort], fun _ => ⟨?_, ?_, ?_, ?_, ?_⟩⟩
  · simp only [openedPort]
    obtain (h2 | h6) | h8 := channels
    · simp [h2]
    · simp [h6]
    · simp [h8]
  · simp only [openedPort, BitVec.toNat_setWidth]
    omega
  · simp only [openedPort, BitVec.toNat_setWidth]
    omega
  · simp only [openedPort, regionAddress, BitVec.toNat_ofNat, Nat.mod_eq_of_lt (wrapAddr_lt_word h.params _)]
    rw [wrapAddr_mod h.params _ (by decide), Nat.add_mod, region, Nat.mul_mod, stride, Nat.mul_zero]
  · simp only [openedPort, indexAddress, BitVec.toNat_ofNat, Nat.mod_eq_of_lt (wrapAddr_lt_word h.params _)]
    rw [wrapAddr_mod h.params _ (by decide), Nat.add_mod, index, Nat.mul_mod_right]

/-- PORT_OPEN at a Closed port: portsInUse has room for one more. -/
theorem Inv.openPort (h : Inv s) (idle : s.eng.phase = .idle) {i : Nat} (hi : i < s.par.portCount)
    (closed : (s.port i).opened = false) (operands : openOperandsOk (arg0 s) (arg1 s) = true) :
    Inv ((s.setPort i (openedPort s i)).setPortsInUse (s.life.portsInUse + 1)) := by
  refine h.setPort idle (openedPort_wf h operands i) ?_
  have count := h.ports.inUse_set hi (openedPort s i)
  have bound : (s.ports.set i (openedPort s i)).countP Port.opened ≤ (s.ports.set i (openedPort s i)).length :=
    List.countP_le_length
  rw [List.length_set, h.ports.size] at bound
  obtain ⟨-, portCount, -⟩ := h.params
  rw [closed, show (openedPort s i).opened = true from rfl, ← h.ports.inUse] at count
  simp only [Bool.false_eq_true, if_false, if_true] at count
  have one : (1 : BitVec 9).toNat = 1 := rfl
  rw [BitVec.toNat_add, one]
  omega

/-- PORT_CLOSE at an open port: portsInUse counts it. -/
theorem Inv.closePort (h : Inv s) (idle : s.eng.phase = .idle) {i : Nat} (hi : i < s.par.portCount)
    (opened : (s.port i).opened = true) :
    Inv ((s.setPort i (s.port i).close).setPortsInUse (s.life.portsInUse - 1)) := by
  refine h.setPort idle (by simp [Port.wf]) ?_
  have count := h.ports.inUse_set hi (s.port i).close
  have bound := s.life.portsInUse.isLt
  rw [opened, close_opened, ← h.ports.inUse] at count
  simp only [Bool.false_eq_true, if_false, if_true] at count
  have one : (1 : BitVec 9).toNat = 1 := rfl
  rw [BitVec.toNat_sub, one]
  omega

theorem EngineInv.initialState (h : EngineInv s) (idle : s.eng.phase = .idle) : EngineInv (initialState s) :=
  h.of_between (by simp [idle]) (by simp [idle]) rfl rfl rfl rfl rfl

theorem OutInv.initialState (h : OutInv s) : OutInv (initialState s) where
  slots := h.slots
  samples := h.samples
  wmix := Nat.zero_lt_of_lt h.wmix
  ring := inRingOrder_nil _
  begun := by simp
  drained := by simp

/-- INIT with the sinks open: the block runs (R110). -/
theorem Inv.initRunning (h : Inv s) (idle : s.eng.phase = .idle) (opened : sinkOpenFailed s = false) :
    Inv (initialState s).startRunning where
  params := h.params
  ports := .of_cleared rfl rfl
  life := by constructor <;> simp [opened]
  engine := (h.engine.initialState idle).congr rfl rfl rfl
  out := h.out.initialState.congr rfl rfl rfl rfl
  regs := h.regs.congr rfl rfl rfl rfl
  memory := h.memory.congr rfl rfl

/-- INIT with a sink that failed to open: the block is finalized at once (R112). -/
theorem Inv.initFailed (h : Inv s) (idle : s.eng.phase = .idle) : Inv (Machine.finalize (initialState s)) where
  params := h.params
  ports := (PortsInv.of_cleared rfl rfl : PortsInv (initialState s)).finalize
  life := .of_finalize rfl (by simp)
  engine := (h.engine.initialState idle).of_between (by simp) (by simp) rfl rfl rfl rfl rfl
  out := h.out.initialState.finalize
  regs := h.regs.congr rfl rfl rfl rfl
  memory := h.memory.congr rfl rfl

theorem Inv.pendQuit (h : Inv s) (busy : s.regs.busy = true) (word : decode s.regs.cmdl.word = .command .quit)
    (initialized : s.life.initialized = true) (ready : s.life.finalized = true ∨ s.life.stopReq = true) :
    Inv s.pendQuit where
  params := h.params
  ports := h.ports.congr rfl rfl rfl
  life := by
    obtain ⟨alive, -, stopping, sinkFail, stopReq, sent, phase, -⟩ := h.life
    exact ⟨alive, by simp [State.pendQuit, initialized], stopping, sinkFail, stopReq, sent, phase,
      fun _ => ⟨busy, initialized, ready, word⟩⟩
  engine := h.engine.congr rfl rfl rfl
  out := h.out.congr rfl rfl rfl rfl
  regs := h.regs.congr rfl rfl rfl rfl
  memory := h.memory.congr rfl rfl

/-- QUIT requests a stop unless the block is finalized, and then holds (R114). -/
theorem Inv.quitRequested (h : Inv s) (busy : s.regs.busy = true) (word : decode s.regs.cmdl.word = .command .quit)
    (initialized : s.life.initialized = true) : Inv (quitRequested s) := by
  rw [quitRequested_eq]
  split
  · next finalized => exact h.pendQuit busy word initialized (.inl finalized)
  · next alive =>
    have running : s.life.running = true := by simpa [alive] using h.life.alive initialized
    exact (h.requestStop running).pendQuit busy word initialized (.inr rfl)

/-- QUIT completes when the block is finalized and the sentinel popped (R114). -/
theorem Inv.endLifetime (h : Inv s) (finalized : s.life.finalized = true) (popped : s.out.sent = false) :
    Inv (endLifetime s) where
  params := h.params
  ports := h.ports.congr rfl rfl rfl
  life := by
    refine ⟨by simp, by simp, by simp, by simp, rfl, fun sent => ?_, fun active => ?_, by simp⟩
    · simp [popped] at sent
    · have running := h.life.phase active
      simpa [finalized, running] using h.life.alive (h.initialized_of_running running)
  engine := h.engine.congr rfl rfl rfl
  out := ⟨h.out.slots, h.out.samples, h.out.wmix, h.out.ring, h.out.begun,
    fun _ sent => h.out.drained (.inl finalized) sent⟩
  regs := h.regs.congr rfl rfl rfl rfl
  memory := h.memory.congr rfl rfl

theorem quitMayComplete_iff : quitMayComplete s = true ↔ s.life.finalized = true ∧ s.out.sent = false := by
  simp [quitMayComplete]

/-- A QUIT holds only in a lifetime. -/
theorem LifeInv.free_of_dead (h : LifeInv s) (dead : s.life.initialized = false) : s.life.quitPending = false := by
  obtain ⟨-, -, -, free⟩ := h.dead dead
  exact free

/-- A command that runs: QUIT, whether it holds already or not, or another one in IDLE with no QUIT holding. -/
theorem Inv.executed (h : Inv s) (busy : s.regs.busy = true) {i : Instr} (word : decode s.regs.cmdl.word = .command i)
    (ready : i = .quit ∨ (s.eng.phase = .idle ∧ s.life.quitPending = false)) (he : Executed s i t) : Inv t := by
  have ready_of_ne (other : i ≠ .quit) : s.eng.phase = .idle ∧ s.life.quitPending = false :=
    ready.resolve_left other
  have done {u : State} (hu : Inv u) (hq : u.life.quitPending = false) : Inv (Machine.finish .ok u) :=
    hu.finish hq (by simp)
  cases he with
  | turnedAway away dead =>
    have free : s.life.quitPending = false := ready.elim (fun quit => h.life.free_of_dead (dead quit)) And.right
    obtain ⟨c, -, notOpen, notQueue, rfl⟩ := away
    exact h.finish free ⟨notOpen, notQueue⟩
  | initFailed =>
    obtain ⟨idle, free⟩ := ready_of_ne (by simp)
    exact done (h.initFailed idle) rfl
  | initRunning _ opened =>
    obtain ⟨idle, free⟩ := ready_of_ne (by simp)
    exact done (h.initRunning idle opened) rfl
  | quitCompletes initialized complete =>
    obtain ⟨finalized, popped⟩ := quitMayComplete_iff.1 complete
    exact done ((h.quitRequested busy word initialized).endLifetime finalized popped) rfl
  | quitHolds initialized => exact h.quitRequested busy word initialized
  | opened _ operands hp closed =>
    obtain ⟨idle, free⟩ := ready_of_ne (by simp)
    exact done ((h.openPort idle hp closed operands).setRes _) free
  | closed _ hp opened =>
    obtain ⟨idle, free⟩ := ready_of_ne (by simp)
    exact done (h.closePort idle hp opened) free
  | started _ hp opened | stopped _ hp opened =>
    obtain ⟨idle, free⟩ := ready_of_ne (by simp)
    obtain ⟨-, fields⟩ := h.ports.port_wf _
    exact done (h.setPort_sameOpened idle hp ⟨fun _ => opened, fields⟩ rfl) free
  | level _ hp =>
    obtain ⟨idle, free⟩ := ready_of_ne (by simp)
    exact done (h.setPort_sameOpened idle hp (h.ports.port_wf _) rfl) free
  | answered other =>
    obtain ⟨idle, free⟩ := ready_of_ne other
    exact done (h.setRes _) free

/-- Under the invariant a latched word that runs is QUIT, or it runs in IDLE with no QUIT holding. -/
theorem Inv.ready_cases (h : Inv s) (ready : commandReady s = true) :
    s.regs.busy = true ∧
    (decode s.regs.cmdl.word = .command .quit ∨ (s.eng.phase = .idle ∧ s.life.quitPending = false)) := by
  obtain ⟨busy, ⟨pending, -⟩ | ⟨free, idle | ⟨-, quit⟩⟩⟩ := commandReady_cases ready
  · obtain ⟨-, -, -, quit⟩ := h.life.quit pending
    exact ⟨busy, .inl quit⟩
  · exact ⟨busy, .inr ⟨idle, free⟩⟩
  · exact ⟨busy, .inl quit⟩

theorem Inv.runCommand (h : Inv s) (ready : commandReady s = true) (hr : runCommand s = .next t) : Inv t := by
  obtain ⟨busy, ready⟩ := h.ready_cases ready
  obtain ⟨i, word, he⟩ | ⟨w, word, rfl⟩ := runCommand_cases hr
  · exact h.executed busy word (ready.imp_left fun quit => by simpa [word] using quit) (exec_cases he)
  · obtain ⟨-, free⟩ := ready.resolve_left (by simp [word])
    exact h.finish free (by simp)

/-! ### The cycle engine: MIX -/

theorem Inv.mixRead (h : Inv s) (mix : s.eng.phase = .mix) (hp : s.eng.mixPort < s.par.portCount)
    (started : (s.port s.eng.mixPort).started = true) (reading : s.eng.mixZeroing = false)
    (more : s.eng.mixBuf.length < blockLength (s.port s.eng.mixPort))
    (hr : mixRead s.eng.mixPort s = .next t) : Inv t := by
  obtain ⟨-, rfl⟩ := mixRead_cases hr
  refine h.of_engine rfl rfl rfl rfl rfl rfl .inl ?_ (h.memory.congr rfl rfl)
  obtain ⟨acc2, acc8, frames, -, -, -, -⟩ := h.engine
  have word := h.engine.no_word (by simp [mix])
  refine ⟨acc2, acc8, frames, fun outside => absurd mix outside, fun _ => ⟨hp, started⟩, ⟨?_, ?_⟩,
    by simp [word]⟩
  · rw [List.length_append]
    exact more
  · simp [reading]

theorem Inv.mixBlock (h : Inv s) (mix : s.eng.phase = .mix) (hp : s.eng.mixPort < s.par.portCount)
    (started : (s.port s.eng.mixPort).started = true) (x : List F32) : Inv (mixBlock s.eng.mixPort x s) := by
  have word := h.engine.no_word (by simp [mix])
  refine h.of_engine rfl rfl rfl rfl rfl rfl .inl ?_ (h.memory.congr rfl rfl)
  refine ⟨?_, ?_, fun fr hfr => ?_, fun outside => absurd mix outside, fun _ => ⟨hp, started⟩, by simp,
    by simp [word]⟩
  · simp [mixedFrames]
  · simp [mixedFrames]
  · simp only [mixBlock_acc8, mixedFrames, List.map_map, List.mem_map] at hfr
    obtain ⟨f, -, rfl⟩ := hfr
    exact mixFrame_raw_length ..

theorem Inv.mixZero (h : Inv s) : Inv (mixZero s.eng.mixPort s) := by
  refine h.of_engine rfl rfl rfl rfl rfl rfl .inl ?_
    ⟨memWrite_wf h.memory.canonical _ _ _, memWrite_space h.memory.space _ _ _⟩
  obtain ⟨acc2, acc8, frames, outside, underway, extent, publishing⟩ := h.engine
  exact ⟨acc2, acc8, frames, outside, underway, extent, publishing⟩

/-- MIX between two blocks: none is under way. -/
theorem EngineInv.of_atPort (h : EngineInv s) (mix : s.eng.phase = .mix) (acc2 : t.eng.acc2 = s.eng.acc2)
    (acc8 : t.eng.acc8 = s.eng.acc8) (buf : t.eng.mixBuf = []) (zeroing : t.eng.mixZeroing = false)
    (word : t.eng.notifyWord = s.eng.notifyWord) : EngineInv t :=
  .of_idle (acc2 ▸ h.acc2) (acc8 ▸ h.acc8) (acc8 ▸ h.acc8Frames) buf zeroing
    (word.trans (h.no_word (by simp [mix])))

theorem Inv.mixNext (h : Inv s) (mix : s.eng.phase = .mix) (zeroing : s.eng.mixZeroing = true) :
    Inv (mixNext s.eng.mixPort s) :=
  h.of_engine rfl rfl rfl rfl rfl rfl .inl (h.engine.of_atPort mix rfl rfl (h.engine.extent.2 zeroing) rfl rfl)
    (h.memory.congr rfl rfl)

theorem Inv.mixStarted (h : Inv s) (mix : s.eng.phase = .mix) (hp : s.eng.mixPort < s.par.portCount)
    (started : (s.port s.eng.mixPort).started = true) (hs : mixStarted s.eng.mixPort s = .next t) : Inv t := by
  obtain ⟨reading, more, hr⟩ | ⟨-, -, rfl⟩ | ⟨-, -, rfl⟩ | ⟨zeroing, -, rfl⟩ := mixStarted_cases hs
  · exact h.mixRead mix hp started reading more hr
  · exact h.mixBlock mix hp started _
  · exact h.mixZero
  · exact h.mixNext mix zeroing

/-- A block that is under way is a Started port's, so MIX stands between blocks at any other port. -/
theorem EngineInv.noBlock (h : EngineInv s)
    (stopped : s.par.portCount ≤ s.eng.mixPort ∨ (s.port s.eng.mixPort).started = false) :
    s.eng.mixBuf = [] ∧ s.eng.mixZeroing = false := by
  have none : ¬(s.eng.mixBuf ≠ [] ∨ s.eng.mixZeroing = true) := fun underway => by
    obtain ⟨hp, started⟩ := h.underway underway
    exact stopped.elim (by omega) (by simp [started])
  simpa using none

theorem EngineInv.mixEnd (h : EngineInv s) (mix : s.eng.phase = .mix) : EngineInv (mixEnd s) := by
  have word := h.no_word (by simp [mix])
  unfold Machine.mixEnd
  by_cases active : s.eng.anyActive = true
  · rw [if_pos active]
    exact .of_idle h.acc2 h.acc8 h.acc8Frames rfl rfl word
  · rw [if_neg active]
    refine .of_idle ?_ ?_ (fun fr hfr => ?_) rfl rfl word
    · simp [Engine.silence, Engine.setFrames]
    · simp [Engine.silence, Engine.setFrames]
    · simp only [Engine.silence, Engine.setFrames, List.map_replicate] at hfr
      rw [List.eq_of_mem_replicate hfr, List.length_replicate]

theorem Inv.mixEnd (h : Inv s) (mix : s.eng.phase = .mix) : Inv (mixEnd s) :=
  h.of_engine rfl rfl rfl rfl rfl rfl (fun _ => .inl (by simp [mix])) (h.engine.mixEnd mix) (h.memory.congr rfl rfl)

theorem Inv.mixStep (h : Inv s) (mix : s.eng.phase = .mix) (hs : mixStep s = .next t) : Inv t := by
  obtain ⟨hp, started, hs⟩ | ⟨-, stopped, rfl⟩ | ⟨-, rfl⟩ := mixStep_cases hs
  · exact h.mixStarted mix hp started hs
  · obtain ⟨buf, zeroing⟩ := h.engine.noBlock (.inr stopped)
    exact h.of_engine rfl rfl rfl rfl rfl rfl .inl (h.engine.of_atPort mix rfl rfl buf zeroing rfl)
      (h.memory.congr rfl rfl)
  · exact h.mixEnd mix

/-! ### The cycle engine: IDLE, CONVERT and HOLD -/

/-- A change of phase in a running block, between blocks. -/
theorem Inv.setPhase (h : Inv s) (running : s.life.running = true) (mix : s.eng.phase ≠ .mix)
    (notify : s.eng.phase ≠ .notify) (ph : Phase) : Inv (s.setPhase ph) :=
  h.of_engine rfl rfl rfl rfl rfl rfl (fun _ => .inr running)
    (h.engine.of_between mix notify rfl rfl rfl rfl rfl) (h.memory.congr rfl rfl)

theorem Inv.countCycle (h : Inv s) : Inv (countCycle s) :=
  h.of_engine rfl rfl rfl rfl rfl rfl .inl (h.engine.congr rfl rfl rfl) (h.memory.congr rfl rfl)

theorem Inv.startMix (h : Inv s) (running : s.life.running = true) (idle : s.eng.phase = .idle) :
    Inv (startMix s) :=
  h.of_engine rfl rfl rfl rfl rfl rfl (fun _ => .inr running)
    (.of_idle h.engine.acc2 h.engine.acc8 h.engine.acc8Frames rfl rfl (h.engine.no_word (by simp [idle])))
    (h.memory.congr rfl rfl)

theorem Inv.idleStep (h : Inv s) (idle : s.eng.phase = .idle) (hs : idleStep s = t) : Inv t := by
  obtain ⟨-, rfl⟩ | ⟨running, stop⟩ | ⟨-, -, -, rfl⟩ | ⟨running, -, -, rfl⟩ := idleStep_cases hs
  · exact h
  · exact h.stopCheck (by simp [idle]) (by simp [idle]) stop
  · exact h
  · obtain ⟨-, eq⟩ | ⟨-, -, eq⟩ | ⟨-, -, eq⟩ := evaluate_cases rfl <;> rw [eq]
    · exact h
    · exact h.countCycle
    · exact h.countCycle.startMix running idle

theorem Inv.holdStep (h : Inv s) (hold : s.eng.phase = .hold) (hs : holdStep s = t) : Inv t := by
  obtain stop | ⟨-, -, rfl⟩ | ⟨-, -, rfl⟩ := holdStep_cases hs
  · exact h.stopCheck (by simp [hold]) (by simp [hold]) stop
  · exact h
  · exact h.setPhase (h.life.phase (by simp [hold])) (by simp [hold]) (by simp [hold]) _

/-- A write inside a list keeps its length. -/
theorem writeOver_length {old new : List Sample} {at_ : Nat} (fits : at_ + new.length ≤ old.length) :
    (writeOver old at_ new).length = old.length := by
  simp only [writeOver, List.length_append, List.length_take, List.length_drop]
  omega

/-- The slot that CONVERT has written is as long as every slot (R211). -/
theorem filledSlot_length (h : OutInv s) : (filledSlot s).length = s.par.slotSamples := by
  have old : (s.out.slots.getD s.out.wslot.val []).length = s.par.slotSamples := by
    have hlt : s.out.wslot.val < s.out.slots.length := h.slots ▸ s.out.wslot.isLt
    rw [List.getD_eq_getElem _ _ hlt]
    exact h.samples _ (List.getElem_mem hlt)
  have room := Nat.mul_le_mul_right Config.frames (Nat.succ_le_of_lt h.wmix)
  rw [Nat.succ_mul] at room
  rw [filledSlot, writeOver_length, old]
  rw [convertedMix_length, old, Params.slotSamples]
  omega

/-- CONVERT writes a slot that is free, so that the queue has room for it (R211, R216). -/
theorem OutInv.convertFill (h : OutInv s) (free : 0 < s.out.wmix ∨ queueFull s = false)
    (alive : s.life.initialized = true ∧ s.life.finalized = false) : OutInv (convertFill s) := by
  have room : s.out.q.length < Config.nslots := free.elim h.begun (by simp [queueFull])
  have slots : (s.out.slots.set s.out.wslot.val (filledSlot s)).length = Config.nslots := by
    rw [List.length_set]; exact h.slots
  have samples : ∀ sl ∈ s.out.slots.set s.out.wslot.val (filledSlot s), sl.length = s.par.slotSamples := by
    intro sl hsl
    obtain old | rfl := List.mem_or_eq_of_mem_set hsl
    · exact h.samples _ old
    · exact filledSlot_length h
  have drained : ¬(s.life.finalized = true ∨ s.life.initialized = false) := by simp [alive]
  by_cases full : s.out.wmix + 1 = s.par.slotMixes
  · have out : (Machine.convertFill s).out = { s.out with
        slots := s.out.slots.set s.out.wslot.val (filledSlot s)
        q := s.out.q ++ [s.out.wslot], wslot := s.out.wslot + 1, wmix := 0 } := if_pos full
    constructor <;> rw [out]
    exacts [slots, samples, Nat.zero_lt_of_lt h.wmix, inRingOrder_push h.ring room, by simp,
      fun dead => absurd dead drained]
  · have out : (Machine.convertFill s).out = { s.out with
        slots := s.out.slots.set s.out.wslot.val (filledSlot s), wmix := s.out.wmix + 1 } := if_neg full
    constructor <;> rw [out]
    exacts [slots, samples, Nat.lt_of_le_of_ne h.wmix full, h.ring, fun _ => room, fun dead => absurd dead drained]

@[simp] theorem advanceSlot_sent (n : Nat) (o : OutPath) : (advanceSlot n o).sent = o.sent := by
  unfold advanceSlot
  split <;> rfl

theorem Inv.convertFill (h : Inv s) (convert : s.eng.phase = .convert)
    (free : 0 < s.out.wmix ∨ queueFull s = false) : Inv (convertFill s) := by
  have running := h.life.phase (by simp [convert])
  have initialized := h.initialized_of_running running
  have finalized : s.life.finalized = false := by simpa [running] using h.life.alive initialized
  obtain ⟨buf, zeroing⟩ := h.engine.outside (by simp [convert])
  exact { h with
    ports := h.ports.congr rfl rfl rfl
    life := h.life.of_flags rfl (by simp [Machine.convertFill]) (fun _ => .inr running) fun _ => ⟨rfl, rfl⟩
    engine := .of_idle h.engine.acc2 h.engine.acc8 h.engine.acc8Frames buf zeroing rfl
    out := h.out.convertFill free ⟨initialized, finalized⟩
    regs := h.regs.congr rfl rfl rfl rfl
    memory := h.memory.congr rfl rfl }

theorem Inv.convertStep (h : Inv s) (convert : s.eng.phase = .convert) (hs : convertStep s = t) : Inv t := by
  obtain ⟨-, -, rfl⟩ | ⟨free, rfl⟩ := convertStep_cases hs
  · exact h.setPhase (h.life.phase (by simp [convert])) (by simp [convert]) (by simp [convert]) _
  · exact h.convertFill convert free

/-! ### The cycle engine: NOTIFY -/

/-- The read position that NOTIFY publishes is one of the port's blocks (R154). -/
theorem nextPosition_lt {e : Port} (h : 1 ≤ e.blockCount.toNat) : nextPosition e < e.blockCount.toNat :=
  Nat.mod_lt _ h

theorem Inv.advancePort (h : Inv s) (notify : s.eng.phase = .notify) (hi : s.eng.notifyAt < s.par.portCount)
    (started : (s.port s.eng.notifyAt).started = true) : Inv (advancePort s.eng.notifyAt s) := by
  have wf := h.ports.port_wf s.eng.notifyAt
  have blocks : 1 ≤ (s.port s.eng.notifyAt).blockCount.toNat := by
    obtain ⟨startedOpen, fields⟩ := wf
    obtain ⟨-, blocks, -⟩ := fields (startedOpen started)
    exact blocks
  obtain ⟨buf, zeroing⟩ := h.engine.outside (by simp [notify])
  have count := h.ports.inUse_set hi (notifiedPort s (s.port s.eng.notifyAt))
  have same : (notifiedPort s (s.port s.eng.notifyAt)).opened = (s.port s.eng.notifyAt).opened := rfl
  rw [same, ← h.ports.inUse, add_left_inj] at count
  have entry : (Machine.advancePort s.eng.notifyAt s).port s.eng.notifyAt =
      notifiedPort s (s.port s.eng.notifyAt) := setPort_port_same s _ _ (by rw [h.ports.size]; exact hi)
  exact { h with
    ports := ⟨by simpa using h.ports.size, h.ports.set_wf wf, count.symm⟩
    life := h.life.of_flags rfl id .inl fun _ => ⟨rfl, rfl⟩
    engine := by
      refine ⟨h.engine.acc2, h.engine.acc8, h.engine.acc8Frames, fun _ => ⟨buf, zeroing⟩, by simp [buf, zeroing],
        by simp [buf, zeroing], fun np hnp => ⟨notify, hi, ?_⟩⟩
      obtain rfl : nextPosition (s.port s.eng.notifyAt) = np := by simpa using hnp
      rw [advancePort_notifyAt, entry]
      exact ⟨started, nextPosition_lt blocks⟩
    out := h.out.congr rfl rfl rfl rfl
    regs := h.regs.congr rfl rfl rfl rfl
    memory := h.memory.congr rfl rfl }

/-- NOTIFY with no read position to write. -/
theorem EngineInv.of_notified (h : EngineInv s) (notify : s.eng.phase = .notify) (acc2 : t.eng.acc2 = s.eng.acc2)
    (acc8 : t.eng.acc8 = s.eng.acc8) (buf : t.eng.mixBuf = s.eng.mixBuf)
    (zeroing : t.eng.mixZeroing = s.eng.mixZeroing) (word : t.eng.notifyWord = none) : EngineInv t := by
  obtain ⟨noBuf, noZeroing⟩ := h.outside (by simp [notify])
  exact .of_idle (acc2 ▸ h.acc2) (acc8 ▸ h.acc8) (acc8 ▸ h.acc8Frames) (buf.trans noBuf)
    (zeroing.trans noZeroing) word

theorem EngineInv.noWord_of_stopped (h : EngineInv s) (stopped : (s.port s.eng.notifyAt).started = false) :
    s.eng.notifyWord = none := by
  by_contra some
  obtain ⟨np, hnp⟩ := Option.ne_none_iff_exists'.1 some
  obtain ⟨-, -, started, -⟩ := h.publishing np hnp
  simp [started] at stopped

theorem Inv.notifyStep (h : Inv s) (notify : s.eng.phase = .notify) (hs : notifyStep s = .next t) : Inv t := by
  have active : s.eng.phase ≠ .idle := by simp [notify]
  obtain ⟨hi, started, hs⟩ | ⟨-, stopped, rfl⟩ | ⟨-, rfl⟩ := notifyStep_cases hs
  · obtain ⟨-, rfl⟩ | ⟨np, -, -, rfl⟩ := notifyStarted_cases hs
    · exact h.advancePort notify hi started
    · exact h.of_engine rfl rfl rfl rfl rfl rfl .inl (h.engine.of_notified notify rfl rfl rfl rfl rfl)
        ⟨memWrite_wf h.memory.canonical _ _ _, memWrite_space h.memory.space _ _ _⟩
  · exact h.of_engine rfl rfl rfl rfl rfl rfl .inl
      (h.engine.of_notified notify rfl rfl rfl rfl (h.engine.noWord_of_stopped stopped)) (h.memory.congr rfl rfl)
  · exact h.of_engine rfl rfl rfl rfl rfl rfl (fun _ => .inl active)
      (h.engine.of_notified notify rfl rfl rfl rfl rfl) (h.memory.congr rfl rfl)

theorem Inv.engineStep (h : Inv s) (hs : engineStep s = .next t) : Inv t := by
  obtain ⟨idle, hs⟩ | ⟨mix, hs⟩ | ⟨convert, hs⟩ | ⟨hold, hs⟩ | ⟨notify, hs⟩ := engineStep_cases hs
  · exact h.idleStep idle hs
  · exact h.mixStep mix hs
  · exact h.convertStep convert hs
  · exact h.holdStep hold hs
  · exact h.notifyStep notify hs

/-! ### The turns -/

theorem Inv.amxStep (h : Inv s) (hs : amxStep s = .next t) : Inv t := by
  obtain ⟨-, rfl⟩ | ⟨-, ready, hs⟩ | ⟨-, -, hs⟩ := amxStep_cases hs
  · exact h
  · exact h.runCommand ready hs
  · exact h.engineStep hs

theorem Inv.respond (h : Inv s) (error : Bool) (data : Word) : Inv (s.respond error data) :=
  h.congr rfl rfl rfl rfl rfl rfl rfl

theorem Inv.readEffect (h : Inv s) (r : Reg) : Inv (readEffect s r) := by
  cases r
  case cycleLo => exact h.of_regs (h.regs.congr rfl rfl rfl rfl) fun _ => ⟨rfl, rfl⟩
  case startTsLo => exact h.of_regs (h.regs.congr rfl rfl rfl rfl) fun _ => ⟨rfl, rfl⟩
  all_goals exact h

/-- A CMD write is dropped while a QUIT holds, as BUSY is set (R23). -/
theorem Inv.writeCmd (h : Inv s) (v : Word) : Inv (writeCmd v s) := by
  unfold Machine.writeCmd
  split
  · exact h.of_regs (h.regs.congr rfl rfl rfl rfl) fun _ => ⟨rfl, rfl⟩
  · next free =>
    exact h.of_regs (h.regs.congr rfl rfl rfl rfl) fun hq => absurd (h.life.quit hq).1 free

theorem Inv.whenUninit (h : Inv s) {r : Regs} (regs : RegsInv { s with regs := r }) (busy : r.busy = s.regs.busy)
    (cmdl : r.cmdl = s.regs.cmdl) : Inv (whenUninit s r) := by
  unfold Machine.whenUninit
  split
  · exact h
  · exact h.of_regs regs fun _ => ⟨busy, cmdl⟩

theorem Inv.regWrite (h : Inv s) (v : Word) (r : Reg) : Inv (regWrite s v r) := by
  obtain ⟨regionBase, indexBase, out, status⟩ := h.regs
  cases r
  case cmd => exact h.writeCmd v
  case cmdstat => exact h.of_regs (h.regs.congr rfl rfl rfl rfl) fun _ => ⟨rfl, rfl⟩
  case arg0 => exact h.of_regs (h.regs.congr rfl rfl rfl rfl) fun _ => ⟨rfl, rfl⟩
  case arg1 => exact h.of_regs (h.regs.congr rfl rfl rfl rfl) fun _ => ⟨rfl, rfl⟩
  case arg2 => exact h.of_regs (h.regs.congr rfl rfl rfl rfl) fun _ => ⟨rfl, rfl⟩
  case arg3 => exact h.of_regs (h.regs.congr rfl rfl rfl rfl) fun _ => ⟨rfl, rfl⟩
  case cfgRegionBase => exact h.whenUninit ⟨and_region_mask_mod v, indexBase, out, status⟩ rfl rfl
  case cfgIndexBase => exact h.whenUninit ⟨regionBase, and_index_mask_mod v, out, status⟩ rfl rfl
  case cfgOut => exact h.whenUninit ⟨regionBase, indexBase, and_out_mask_lt v, status⟩ rfl rfl
  all_goals exact h

theorem Inv.hostRead (h : Inv s) (off : BitVec 8) (width : Nat) : Inv (hostRead off width s) := by
  unfold Machine.hostRead
  split
  · exact h
  · split
    · exact h.respond _ _
    · exact (h.readEffect _).respond _ _

theorem Inv.hostWrite (h : Inv s) (off : BitVec 8) (width : Nat) (v : Word) : Inv (hostWrite off width v s) := by
  unfold Machine.hostWrite
  split
  · exact h
  · split
    · exact h.respond _ _
    · exact (h.regWrite _ _).respond _ _

/-- The consumer takes the oldest slot, or the sentinel of a finalized block behind them all (R217). -/
theorem Inv.consumerPop (h : Inv s) : Inv (consumerPop s) := by
  obtain ⟨j, rest, hq, eq⟩ | ⟨hq, sent, eq⟩ | ⟨-, -, eq⟩ := consumerPop_cases (s := s) rfl <;> rw [eq]
  · have q := hq ▸ h.out.begun
    exact { h with
      ports := h.ports.congr rfl rfl rfl
      life := h.life.of_flags rfl id .inl fun _ => ⟨rfl, rfl⟩
      engine := h.engine.congr rfl rfl rfl
      out := ⟨h.out.slots, h.out.samples, h.out.wmix, inRingOrder_pop (hq ▸ h.out.ring),
        fun begun => Nat.lt_of_succ_lt (q begun),
        fun dead none => by have := h.out.drained dead none; simp [hq] at this⟩
      regs := h.regs.congr rfl rfl rfl rfl
      memory := h.memory.congr rfl rfl }
  · exact { h with
      ports := h.ports.congr rfl rfl rfl
      life := h.life.of_flags rfl (by simp) .inl fun _ => ⟨rfl, rfl⟩
      engine := h.engine.congr rfl rfl rfl
      out := ⟨h.out.slots, h.out.samples, h.out.wmix, h.out.ring, h.out.begun, fun _ _ => hq⟩
      regs := h.regs.congr rfl rfl rfl rfl
      memory := h.memory.congr rfl rfl }
  · exact h.congr rfl rfl rfl rfl rfl rfl rfl

theorem Inv.producerWrite (h : Inv s) (addr : Word) (bytes : List Byte) : Inv (producerWrite addr bytes s) :=
  h.of_engine rfl rfl rfl rfl rfl rfl .inl (h.engine.congr rfl rfl rfl)
    ⟨producerWrite_wf h.memory.canonical _ _, producerWrite_space h.memory.space _ _⟩

theorem Inv.of_inputs (h : Inv s) (inputs : Inputs) : Inv { s with inputs := inputs } :=
  h.congr rfl rfl rfl rfl rfl rfl rfl

theorem Inv.setReset (h : Inv s) (v : Bool) : Inv (setReset v s) := by
  cases v
  · exact h.of_inputs _
  · exact (h.of_inputs _).hardReset

theorem Inv.takeTurn (h : Inv s) {turn : Turn} (ht : takeTurn turn s = .next t) : Inv t := by
  cases turn
  case amx => exact h.amxStep ht
  all_goals obtain rfl := next_inj ht
  case hostWrite off width v => exact h.hostWrite off width v
  case hostRead off width => exact h.hostRead off width
  case pop => exact h.consumerPop
  case produce addr bytes => exact h.producerWrite addr bytes
  case setReset v => exact h.setReset v
  all_goals exact h.of_inputs _

/-- Settles O53: each agent's turn keeps the invariant, and taking the turn off the list does not touch it. -/
theorem stepKeepsInv : Obligations.StepKeepsInv := by
  intro s t h hs
  have begun : Inv (beginTurn s) := h.congr rfl rfl rfl rfl rfl rfl rfl
  exact begun.takeTurn hs

end Sys2Proof.Machine

/-! PROOFS. What one step can do to the port table, the lifecycle and the command registers (10_state.md R25, R36, R42,
40_lifecycle.md R121): O5, O6, O55, O57, O60.

`step_effect` says once what a step can do to the ports and to the lifecycle; the laws are read off it. -/

namespace Sys2Proof.Machine

variable {s t : State}

/-! ### What a step can do -/

/-- Neither the port table nor a flag of the lifecycle changes. -/
structure Quiet (s t : State) : Prop where
  ports : t.ports = s.ports
  flags : t.life.flags = s.life.flags

/-- A stop that is acted on: why, and what it leaves (R115, R116, R118). -/
structure StopActed (s t : State) : Prop where
  cause : s.life.stopReq = true ∨ (s.life.running = true ∧ s.inputs.envStop = true)
  ports : t.ports = s.ports.map Port.close
  flags : t.life.flags = (finalize s).life.flags
  sent : t.out.sent = true
  regs : t.regs = s.regs

theorem stopActed_of_stopCheck (h : stopCheck s = some t) : StopActed s t := by
  obtain ⟨running, env, rfl⟩ | ⟨stopReq, -, rfl⟩ := stopCheck_cases h
  · exact ⟨.inr ⟨running, env⟩, rfl, rfl, rfl, rfl⟩
  · exact ⟨.inl stopReq, rfl, rfl, rfl, rfl⟩

/-- A step of the cycle engine: a stop at a check point, a port served by NOTIFY, or work that shows in neither the
ports nor the flags. -/
inductive EngineEffect (s t : State) : Prop
  | quiet (quiet : Quiet s t) (regs : t.regs = s.regs)
  | stopped (phase : s.eng.phase = .idle ∨ s.eng.phase = .hold) (stop : StopActed s t)
  | served (notify : s.eng.phase = .notify) (started : (s.port s.eng.notifyAt).started = true)
      (eq : t = advancePort s.eng.notifyAt s)

theorem idleStep_effect (idle : s.eng.phase = .idle) : EngineEffect s (idleStep s) := by
  obtain ⟨-, eq⟩ | ⟨-, stop⟩ | ⟨-, -, -, eq⟩ | ⟨-, -, -, eq⟩ := idleStep_cases (s := s) rfl
  · exact .quiet (by rw [eq]; exact ⟨rfl, rfl⟩) (by rw [eq])
  · exact .stopped (.inl idle) (stopActed_of_stopCheck stop)
  · exact .quiet (by rw [eq]; exact ⟨rfl, rfl⟩) (by rw [eq])
  · rw [eq]
    obtain ⟨-, eq⟩ | ⟨-, -, eq⟩ | ⟨-, -, eq⟩ := evaluate_cases (s := s) rfl <;>
      rw [eq] <;> exact .quiet ⟨rfl, rfl⟩ rfl

theorem mixStep_effect (h : mixStep s = .next t) : EngineEffect s t := by
  obtain ⟨-, -, h⟩ | ⟨-, -, rfl⟩ | ⟨-, rfl⟩ := mixStep_cases h
  · obtain ⟨-, -, h⟩ | ⟨-, -, rfl⟩ | ⟨-, -, rfl⟩ | ⟨-, -, rfl⟩ := mixStarted_cases h
    · obtain ⟨-, rfl⟩ := mixRead_cases h
      exact .quiet ⟨rfl, rfl⟩ rfl
    all_goals exact .quiet ⟨rfl, rfl⟩ rfl
  all_goals exact .quiet ⟨rfl, rfl⟩ rfl

theorem convertStep_effect (s : State) : EngineEffect s (convertStep s) := by
  obtain ⟨-, -, eq⟩ | ⟨-, eq⟩ := convertStep_cases (s := s) rfl <;> rw [eq] <;> exact .quiet ⟨rfl, rfl⟩ rfl

theorem holdStep_effect (hold : s.eng.phase = .hold) : EngineEffect s (holdStep s) := by
  obtain stop | ⟨-, -, eq⟩ | ⟨-, -, eq⟩ := holdStep_cases (s := s) rfl
  · exact .stopped (.inr hold) (stopActed_of_stopCheck stop)
  all_goals rw [eq]; exact .quiet ⟨rfl, rfl⟩ rfl

theorem notifyStep_effect (notify : s.eng.phase = .notify) (h : notifyStep s = .next t) : EngineEffect s t := by
  obtain ⟨-, started, h⟩ | ⟨-, -, rfl⟩ | ⟨-, rfl⟩ := notifyStep_cases h
  · obtain ⟨-, eq⟩ | ⟨np, -, -, rfl⟩ := notifyStarted_cases h
    · exact .served notify started eq
    · exact .quiet ⟨rfl, rfl⟩ rfl
  all_goals exact .quiet ⟨rfl, rfl⟩ rfl

theorem engineStep_effect (h : engineStep s = .next t) : EngineEffect s t := by
  obtain ⟨idle, rfl⟩ | ⟨-, h⟩ | ⟨-, rfl⟩ | ⟨hold, rfl⟩ | ⟨notify, h⟩ := engineStep_cases h
  · exact idleStep_effect idle
  · exact mixStep_effect h
  · exact convertStep_effect s
  · exact holdStep_effect hold
  · exact notifyStep_effect notify h

/-- A host access changes registers and is answered. -/
theorem hostRead_frame (off : BitVec 8) (width : Nat) (s : State) :
    ∃ r o, hostRead off width s = { s with regs := r, outputs := o } := by
  unfold hostRead
  split
  · exact ⟨_, _, rfl⟩
  · split
    · exact ⟨_, _, rfl⟩
    · next r _ => cases r <;> exact ⟨_, _, rfl⟩

theorem regWrite_frame (s : State) (v : Word) (r : Reg) : ∃ regs, regWrite s v r = { s with regs := regs } := by
  cases r
  case cmd =>
    simp only [regWrite, writeCmd]
    split <;> exact ⟨_, rfl⟩
  case cfgRegionBase | cfgIndexBase | cfgOut =>
    simp only [regWrite, whenUninit]
    split <;> exact ⟨_, rfl⟩
  all_goals exact ⟨_, rfl⟩

theorem hostWrite_frame (off : BitVec 8) (width : Nat) (v : Word) (s : State) :
    ∃ r o, hostWrite off width v s = { s with regs := r, outputs := o } := by
  unfold hostWrite
  split
  · exact ⟨_, _, rfl⟩
  · split
    · exact ⟨_, _, rfl⟩
    · next r _ =>
      obtain ⟨regs, eq⟩ := regWrite_frame s v r
      rw [eq]
      exact ⟨_, _, rfl⟩

/-- One step: a hardware reset, a step of AMX's cycle engine that shows, AMX's latched command, or a step that is
quiet. -/
inductive StepEffect (s t : State) : Prop
  | quiet (quiet : Quiet s t)
  | reset (turn : currentTurn s = .setReset true) (ports : t.ports = List.replicate s.par.portCount Port.zero)
  | stopped (moves : AmxMoves s) (phase : s.eng.phase = .idle ∨ s.eng.phase = .hold) (stop : StopActed s t)
  | served (moves : AmxMoves s) (notify : s.eng.phase = .notify) (started : (s.port s.eng.notifyAt).started = true)
      (ports : t.ports = s.ports.set s.eng.notifyAt (notifiedPort s (s.port s.eng.notifyAt)))
      (flags : t.life.flags = s.life.flags)
  | command (i : Instr) (moves : AmxMoves s) (ready : commandReady s = true)
      (word : decode s.regs.cmdl.word = .command i) (done : Executed (beginTurn s) i t)

theorem amxStep_effect (turn : currentTurn s = .amx) (h : amxStep (beginTurn s) = .next t) : StepEffect s t := by
  obtain ⟨-, rfl⟩ | ⟨released, ready, h⟩ | ⟨released, -, h⟩ := amxStep_cases h
  · exact .quiet ⟨rfl, rfl⟩
  · obtain ⟨i, word, h⟩ | ⟨w, -, rfl⟩ := runCommand_cases h
    · exact .command i ⟨turn, released⟩ ready word (exec_cases h)
    · exact .quiet ⟨rfl, rfl⟩
  · obtain ⟨⟨ports, flags⟩, -⟩ | ⟨phase, stop⟩ | ⟨notify, started, rfl⟩ := engineStep_effect h
    · exact .quiet ⟨ports, flags⟩
    · exact .stopped ⟨turn, released⟩ phase ⟨stop.cause, stop.ports, stop.flags, stop.sent, stop.regs⟩
    · exact .served ⟨turn, released⟩ notify started rfl rfl

theorem step_effect (h : step s = .next t) : StepEffect s t := by
  unfold step at h
  rcases hturn : currentTurn s with _ | ⟨off, width, v⟩ | ⟨off, width⟩ | _ | ⟨addr, bytes⟩ | v | v | v | v | v | v <;>
    rw [hturn] at h
  case amx => exact amxStep_effect hturn h
  all_goals obtain rfl := next_inj h
  case hostWrite =>
    obtain ⟨r, o, eq⟩ := hostWrite_frame off width v (beginTurn s)
    rw [eq]
    exact .quiet ⟨rfl, rfl⟩
  case hostRead =>
    obtain ⟨r, o, eq⟩ := hostRead_frame off width (beginTurn s)
    rw [eq]
    exact .quiet ⟨rfl, rfl⟩
  case pop =>
    obtain ⟨j, rest, -, eq⟩ | ⟨-, -, eq⟩ | ⟨-, -, eq⟩ := consumerPop_cases (s := beginTurn s) rfl <;> rw [eq] <;>
      exact .quiet ⟨rfl, rfl⟩
  case setReset =>
    cases v
    · exact .quiet ⟨rfl, rfl⟩
    · exact .reset hturn rfl
  all_goals exact .quiet ⟨rfl, rfl⟩

/-! ### What a step can do to one port -/

/-- Replacing an entry changes that entry at most; beyond the table it changes nothing. -/
theorem port_of_set {i : Nat} {e : Port} (h : t.ports = s.ports.set i e) (p : Nat) :
    t.port p = s.port p ∨ (i = p ∧ t.port p = e) := by
  have eq : t.port p = (s.setPort i e).port p := port_congr (s.setPort i e) h p
  rw [eq]
  by_cases hip : i = p
  · subst hip
    by_cases hi : i < s.ports.length
    · exact .inr ⟨rfl, setPort_port_same s i e hi⟩
    · exact .inl (by simp [State.port, List.set_eq_of_length_le (Nat.le_of_not_lt hi)])
  · exact .inl (setPort_port_other s i p e hip)

theorem port_of_replicate {n : Nat} (h : t.ports = List.replicate n Port.zero) (p : Nat) : t.port p = Port.zero := by
  simp only [State.port, h, List.getD_eq_getElem?_getD, List.getElem?_replicate]
  split <;> rfl

theorem port_of_close (h : t.ports = s.ports.map Port.close) (p : Nat) : t.port p = (s.port p).close :=
  (port_congr (finalize s) h p).trans (finalize_port s p)

/-- What command `i` can do to the entry `e` of port `p`, for which PORT_OPEN would write the entry `opening`. -/
inductive PortExecuted (e opening : Port) (p : Nat) : Instr → Port → Prop
  | same {i : Instr} : PortExecuted e opening p i e
  | initialized : PortExecuted e opening p .init Port.zero
  | opened : e.opened = false → PortExecuted e opening p .portOpen opening
  | closed : PortExecuted e opening p (.portClose p) e.close
  | started : PortExecuted e opening p (.portStart p) (e.withStarted true)
  | stopped : PortExecuted e opening p (.portStop p) (e.withStarted false)
  | level (g : F32) : PortExecuted e opening p (.setPortLevel p) (e.withGain g)

theorem PortExecuted.of_ports {i : Instr} (h : t.ports = s.ports) (p : Nat) :
    PortExecuted (s.port p) (openedPort s p) p i (t.port p) := by
  rw [port_congr s h p]
  exact .same

theorem PortExecuted.of_set {i : Instr} {q : Nat} {e : Port} (h : t.ports = s.ports.set q e) (p : Nat)
    (written : q = p → PortExecuted (s.port p) (openedPort s p) p i e) :
    PortExecuted (s.port p) (openedPort s p) p i (t.port p) := by
  obtain eq | ⟨hq, eq⟩ := port_of_set h p <;> rw [eq]
  · exact .same
  · exact written hq

theorem quitRequested_ports (s : State) : (quitRequested s).ports = s.ports := by
  rw [quitRequested_eq_life]

theorem Executed.port {i : Instr} (h : Executed s i t) (p : Nat) :
    PortExecuted (s.port p) (openedPort s p) p i (t.port p) := by
  cases h with
  | turnedAway away =>
    obtain ⟨c, -, -, -, rfl⟩ := away
    exact .of_ports rfl p
  | initFailed =>
    have entry := port_of_close (s := initialState s) (t := finish .ok (finalize (initialState s))) rfl p
    rw [entry, port_of_replicate (t := initialState s) rfl p]
    exact .initialized
  | initRunning =>
    rw [port_of_replicate (t := finish .ok (initialState s).startRunning) rfl p]
    exact .initialized
  | quitCompletes => exact .of_ports (quitRequested_ports s) p
  | quitHolds => exact .of_ports (quitRequested_ports s) p
  | opened _ _ _ closed => exact .of_set rfl p fun hq => hq ▸ .opened closed
  | closed => exact .of_set rfl p fun hq => hq ▸ .closed
  | started => exact .of_set rfl p fun hq => hq ▸ .started
  | stopped => exact .of_set rfl p fun hq => hq ▸ .stopped
  | level => exact .of_set rfl p fun hq => hq ▸ .level _
  | answered => exact .of_ports rfl p

/-- AMX's turn is the latched command `i`'s. -/
abbrev Runs (s : State) (i : Instr) : Prop :=
  AmxMoves s ∧ s.regs.busy = true ∧ decode s.regs.cmdl.word = .command i

/-- What a step can do to the entry of port `p`. -/
inductive PortEffect (s t : State) (p : Nat) : Prop
  | same (port : t.port p = s.port p)
  | reset (turn : currentTurn s = .setReset true) (port : t.port p = Port.zero)
  | stopped (moves : AmxMoves s) (phase : s.eng.phase = .idle ∨ s.eng.phase = .hold)
      (cause : s.life.stopReq = true ∨ (s.life.running = true ∧ s.inputs.envStop = true))
      (finalized : t.life.finalized = true) (port : t.port p = (s.port p).close)
  | served (moves : AmxMoves s) (notify : s.eng.phase = .notify) (started : (s.port p).started = true)
      (port : t.port p = notifiedPort s (s.port p))
  | command (i : Instr) (runs : Runs s i) (done : PortExecuted (s.port p) (openedPort s p) p i (t.port p))

theorem step_port (h : step s = .next t) (p : Nat) : PortEffect s t p := by
  obtain ⟨ports, -⟩ | ⟨turn, ports⟩ | ⟨moves, phase, stop⟩ | ⟨moves, notify, started, ports, -⟩ |
    ⟨i, moves, ready, word, done⟩ := step_effect h
  · exact .same (port_congr s ports p)
  · exact .reset turn (port_of_replicate ports p)
  · have finalized := congrArg Life.finalized stop.flags
    exact .stopped moves phase stop.cause finalized (port_of_close stop.ports p)
  · obtain same | ⟨rfl, port⟩ := port_of_set ports p
    · exact .same same
    · exact .served moves notify started port
  · obtain ⟨busy, -⟩ := commandReady_cases ready
    exact .command i ⟨moves, busy, word⟩ (done.port p)

/-- Settles O57: only NOTIFY, PORT_OPEN, INIT and a hardware reset write a tag. -/
theorem tagLaw : Obligations.TagLaw := by
  intro s t p h
  obtain eq | ⟨turn, eq⟩ | ⟨-, -, -, -, eq⟩ | ⟨moves, notify, started, eq⟩ | ⟨i, ⟨moves, busy, word⟩, done⟩ :=
    step_port h p
  · exact .inl (by rw [eq])
  · exact .inr (.inr ⟨by rw [eq]; rfl, .inl turn⟩)
  · exact .inl (by rw [eq]; rfl)
  · exact .inr (.inl ⟨by rw [eq]; rfl, moves, notify, started, by rw [eq]; rfl⟩)
  · generalize t.port p = e at done ⊢
    cases done with
    | initialized => exact .inr (.inr ⟨rfl, .inr ⟨moves, busy, .inr word⟩⟩)
    | opened => exact .inr (.inr ⟨rfl, .inr ⟨moves, busy, .inl word⟩⟩)
    | same | closed | started | stopped | level => exact .inl rfl

/-! ### BUSY and OVERRUN -/

theorem busTarget_eq_cmd {off : BitVec 8} {width : Nat} (h : busTarget off width = some .cmd) :
    off = 0x00 ∧ width = 32 := by
  have only : ∀ off : BitVec 8, regAt off = some .cmd → off = 0x00 := by decide
  unfold busTarget at h
  split at h
  · next aligned => exact ⟨only off h, aligned.1⟩
  · simp at h

theorem busTarget_eq_cmdstat {off : BitVec 8} {width : Nat} (h : busTarget off width = some .cmdstat) :
    off = 0x04 ∧ width = 32 := by
  have only : ∀ off : BitVec 8, regAt off = some .cmdstat → off = 0x04 := by decide
  unfold busTarget at h
  split at h
  · next aligned => exact ⟨only off h, aligned.1⟩
  · simp at h

theorem regWrite_busy (s : State) (v : Word) (r : Reg) :
    (regWrite s v r).regs.busy = (s.regs.busy || decide (r = .cmd)) := by
  cases r
  case cmd =>
    simp only [regWrite, writeCmd]
    split <;> simp_all
  case cfgRegionBase | cfgIndexBase | cfgOut =>
    simp only [regWrite, whenUninit]
    split <;> simp
  all_goals simp [regWrite]

theorem regWrite_overrun (s : State) (v : Word) (r : Reg) :
    (regWrite s v r).regs.overrun =
      (s.regs.overrun && !(decide (r = .cmdstat) && v.getLsbD 9) || decide (r = .cmd) && s.regs.busy) := by
  cases r
  case cmd =>
    simp only [regWrite, writeCmd]
    split <;> simp_all
  case cfgRegionBase | cfgIndexBase | cfgOut =>
    simp only [regWrite, whenUninit]
    split <;> simp
  all_goals simp [regWrite]

/-- What a step can do to BUSY and OVERRUN. -/
inductive CommandFlags (s t : State) : Prop
  | same (busy : t.regs.busy = s.regs.busy) (overrun : t.regs.overrun = s.regs.overrun)
  | reset (turn : currentTurn s = .setReset true) (regs : t.regs = Regs.reset)
  | amx (moves : AmxMoves s) (busy : t.regs.busy = true → s.regs.busy = true)
      (overrun : t.regs.overrun = s.regs.overrun)
  | host (off : BitVec 8) (width : Nat) (v : Word) (r : Reg) (turn : currentTurn s = .hostWrite off width v)
      (target : busTarget off width = some r)
      (busy : t.regs.busy = (s.regs.busy || decide (r = .cmd)))
      (overrun : t.regs.overrun =
        (s.regs.overrun && !(decide (r = .cmdstat) && v.getLsbD 9) || decide (r = .cmd) && s.regs.busy))

theorem Executed.busy_of_busy {i : Instr} (h : Executed s i t) (busy : t.regs.busy = true) :
    s.regs.busy = true := by
  cases h with
  | turnedAway away =>
    obtain ⟨c, -, -, -, rfl⟩ := away
    simp at busy
  | quitHolds =>
    rw [quitRequested_eq_life] at busy
    exact busy
  | initFailed | initRunning | quitCompletes | opened | closed | started | stopped | level | answered =>
    simp at busy

theorem engineStep_regs (h : engineStep s = .next t) : t.regs = s.regs := by
  obtain ⟨-, regs⟩ | ⟨-, stop⟩ | ⟨-, -, rfl⟩ := engineStep_effect h
  · exact regs
  · exact stop.regs
  · rfl

theorem amxStep_commandFlags (turn : currentTurn s = .amx) (h : amxStep (beginTurn s) = .next t) :
    CommandFlags s t := by
  obtain ⟨-, rfl⟩ | ⟨released, -, h⟩ | ⟨released, -, h⟩ := amxStep_cases h
  · exact .same rfl rfl
  · obtain ⟨i, -, h⟩ | ⟨w, -, rfl⟩ := runCommand_cases h
    · exact .amx ⟨turn, released⟩ (exec_cases h).busy_of_busy (exec_cases h).frame.overrun
    · exact .amx ⟨turn, released⟩ (by simp) rfl
  · have regs := engineStep_regs h
    exact .same (by rw [regs]; rfl) (by rw [regs]; rfl)

theorem hostWrite_commandFlags {off : BitVec 8} {width : Nat} {v : Word}
    (turn : currentTurn s = .hostWrite off width v) : CommandFlags s (hostWrite off width v (beginTurn s)) := by
  unfold hostWrite
  split
  · exact .same rfl rfl
  · split
    · exact .same rfl rfl
    · next r target =>
      exact .host off width v r turn target (regWrite_busy (beginTurn s) v r) (regWrite_overrun (beginTurn s) v r)

theorem readEffect_commandFlags (s : State) (r : Reg) :
    (readEffect s r).regs.busy = s.regs.busy ∧ (readEffect s r).regs.overrun = s.regs.overrun := by
  cases r <;> exact ⟨rfl, rfl⟩

theorem hostRead_commandFlags (off : BitVec 8) (width : Nat) :
    CommandFlags s (hostRead off width (beginTurn s)) := by
  unfold hostRead
  split
  · exact .same rfl rfl
  · split
    · exact .same rfl rfl
    · next r _ =>
      obtain ⟨busy, overrun⟩ := readEffect_commandFlags (beginTurn s) r
      exact .same busy overrun

theorem step_commandFlags (h : step s = .next t) : CommandFlags s t := by
  unfold step at h
  rcases hturn : currentTurn s with _ | ⟨off, width, v⟩ | ⟨off, width⟩ | _ | ⟨addr, bytes⟩ | v | v | v | v | v | v <;>
    rw [hturn] at h
  case amx => exact amxStep_commandFlags hturn h
  all_goals obtain rfl := next_inj h
  case hostWrite => exact hostWrite_commandFlags hturn
  case hostRead => exact hostRead_commandFlags off width
  case pop =>
    obtain ⟨j, rest, -, eq⟩ | ⟨-, -, eq⟩ | ⟨-, -, eq⟩ := consumerPop_cases (s := beginTurn s) rfl <;> rw [eq] <;>
      exact .same rfl rfl
  case setReset =>
    cases v
    · exact .same rfl rfl
    · exact .reset hturn rfl
  all_goals exact .same rfl rfl

theorem busy_set (h : CommandFlags s t) (free : s.regs.busy = false) (busy : t.regs.busy = true) :
    ∃ w, currentTurn s = .hostWrite 0x00 32 w := by
  cases h with
  | same eq | amx _ eq => simp_all
  | reset _ regs => simp [regs, Regs.reset] at busy
  | host off width v r turn target eq =>
    obtain rfl : r = .cmd := by simpa [free, busy] using eq
    obtain ⟨rfl, rfl⟩ := busTarget_eq_cmd target
    exact ⟨v, turn⟩

theorem busy_cleared (h : CommandFlags s t) (busy : s.regs.busy = true) (free : t.regs.busy = false) :
    AmxMoves s ∨ currentTurn s = .setReset true := by
  cases h with
  | same eq => simp_all
  | reset turn => exact .inr turn
  | amx moves => exact .inl moves
  | host _ _ _ _ _ _ eq => simp [busy, free] at eq

theorem overrun_set (h : CommandFlags s t) (clear : s.regs.overrun = false) (raised : t.regs.overrun = true) :
    s.regs.busy = true ∧ ∃ w, currentTurn s = .hostWrite 0x00 32 w := by
  cases h with
  | same _ eq | amx _ _ eq => simp [clear, raised] at eq
  | reset _ regs => simp [regs, Regs.reset] at raised
  | host off width v r turn target _ eq =>
    obtain ⟨rfl, busy⟩ : r = .cmd ∧ s.regs.busy = true := by simpa [clear, raised] using eq
    obtain ⟨rfl, rfl⟩ := busTarget_eq_cmd target
    exact ⟨busy, v, turn⟩

theorem overrun_cleared (h : CommandFlags s t) (raised : s.regs.overrun = true) (clear : t.regs.overrun = false) :
    currentTurn s = .setReset true ∨ ∃ v : Word, currentTurn s = .hostWrite 0x04 32 v ∧ v.getLsbD 9 = true := by
  cases h with
  | same _ eq | amx _ _ eq => simp [clear, raised] at eq
  | reset turn => exact .inl turn
  | host off width v r turn target _ eq =>
    obtain ⟨⟨rfl, bit⟩, -⟩ : (r = .cmdstat ∧ v.getLsbD 9 = true) ∧ _ := by simpa [clear, raised] using eq
    obtain ⟨rfl, rfl⟩ := busTarget_eq_cmdstat target
    exact .inr ⟨v, turn, bit⟩

/-! ### The bits of a port -/

/-- A stop that is acted on, as the laws of the flags state it. -/
abbrev StopActs (s t : State) : Prop :=
  AmxMoves s ∧ (s.eng.phase = .idle ∨ s.eng.phase = .hold) ∧
    (s.life.stopReq = true ∨ (s.life.running = true ∧ s.inputs.envStop = true)) ∧ t.life.finalized = true

/-- What closes every port at once. -/
abbrev AllCleared (s t : State) : Prop := currentTurn s = .setReset true ∨ Runs s .init ∨ StopActs s t

variable {p : Nat}

theorem opened_set (h : PortEffect s t p) (closed : (s.port p).opened = false) (opened : (t.port p).opened = true) :
    Runs s .portOpen := by
  obtain eq | ⟨-, eq⟩ | ⟨-, -, -, -, eq⟩ | ⟨-, -, -, eq⟩ | ⟨i, runs, done⟩ := h
  · simp [eq, closed] at opened
  · simp [eq] at opened
  · simp [eq] at opened
  · simp [eq, notifiedPort, closed] at opened
  · generalize t.port p = e at done opened
    cases done with
    | opened => exact runs
    | same | initialized | closed | started | stopped | level => simp [closed] at opened

theorem opened_cleared (h : PortEffect s t p) (opened : (s.port p).opened = true)
    (closed : (t.port p).opened = false) : Runs s (.portClose p) ∨ AllCleared s t := by
  obtain eq | ⟨turn, -⟩ | ⟨moves, phase, cause, finalized, -⟩ | ⟨-, -, -, eq⟩ | ⟨i, runs, done⟩ := h
  · simp [eq, opened] at closed
  · exact .inr (.inl turn)
  · exact .inr (.inr (.inr ⟨moves, phase, cause, finalized⟩))
  · simp [eq, notifiedPort, opened] at closed
  · generalize t.port p = e at done closed
    cases done with
    | initialized => exact .inr (.inr (.inl runs))
    | closed => exact .inl runs
    | opened wasClosed => simp [opened] at wasClosed
    | same | started | stopped | level => simp [opened] at closed

theorem started_set (h : PortEffect s t p) (stopped : (s.port p).started = false)
    (started : (t.port p).started = true) : Runs s (.portStart p) := by
  obtain eq | ⟨-, eq⟩ | ⟨-, -, -, -, eq⟩ | ⟨-, -, -, eq⟩ | ⟨i, runs, done⟩ := h
  · simp [eq, stopped] at started
  · simp [eq] at started
  · simp [eq] at started
  · simp [eq, notifiedPort, stopped] at started
  · generalize t.port p = e at done started
    cases done with
    | started => exact runs
    | opened => simp [openedPort] at started
    | same | initialized | closed | stopped | level => simp [stopped] at started

theorem started_cleared (h : PortEffect s t p) (started : (s.port p).started = true)
    (stopped : (t.port p).started = false) :
    Runs s (.portStop p) ∨ Runs s (.portClose p) ∨ AllCleared s t ∨
      (Runs s .portOpen ∧ (s.port p).opened = false) := by
  obtain eq | ⟨turn, -⟩ | ⟨moves, phase, cause, finalized, -⟩ | ⟨-, -, -, eq⟩ | ⟨i, runs, done⟩ := h
  · simp [eq, started] at stopped
  · exact .inr (.inr (.inl (.inl turn)))
  · exact .inr (.inr (.inl (.inr (.inr ⟨moves, phase, cause, finalized⟩))))
  · simp [eq, notifiedPort, started] at stopped
  · generalize t.port p = e at done stopped
    cases done with
    | initialized => exact .inr (.inr (.inl (.inr (.inl runs))))
    | closed => exact .inr (.inl runs)
    | stopped => exact .inl runs
    | opened closed => exact .inr (.inr (.inr ⟨runs, closed⟩))
    | same | started | level => simp [started] at stopped

/-- Settles O60: `step_commandFlags` for the command registers, `step_port` for the port table. -/
theorem flagLaw : Obligations.FlagLaw := by
  intro s t h
  have flags := step_commandFlags h
  exact ⟨busy_set flags, busy_cleared flags, overrun_set flags, overrun_cleared flags,
    fun p => opened_set (step_port h p), fun p => opened_cleared (step_port h p),
    fun p => started_set (step_port h p), fun p => started_cleared (step_port h p)⟩

/-! ### The step that runs a command -/

theorem commandReady_of_commandRuns (h : CommandRuns s) : commandReady s = true := by
  obtain ⟨-, busy, free, idle⟩ := h
  simp [commandReady, busy, free, idle]

/-- Settles O5: the turn is AMX's, and `commandReady` holds. -/
theorem stepRunsLatchedCommand : Obligations.StepRunsLatchedCommand := by
  intro s i runs word
  have ready := commandReady_of_commandRuns runs
  obtain ⟨⟨turn, released⟩, -⟩ := runs
  calc step s = amxStep (beginTurn s) := by rw [step, turn]; rfl
    _ = runCommand (beginTurn s) := by
      rw [amxStep, if_neg (by simp [released]), if_pos (show commandReady (beginTurn s) = true from ready)]
    _ = exec i (beginTurn s) := by
      rw [runCommand, show decode (beginTurn s).regs.cmdl.word = .command i from word]

/-! ### The lifecycle -/

/-- INIT runs and is not turned away (R110). -/
abbrev InitRuns (s : State) : Prop :=
  CommandRuns s ∧ decode s.regs.cmdl.word = .command .init ∧ s.life.initialized = false

/-- A running block is finalized by a stop (R115, R116, R118). -/
abbrev BlockStops (s t : State) : Prop :=
  AmxMoves s ∧ (s.eng.phase = .idle ∨ s.eng.phase = .hold) ∧ s.life.running = true ∧
    (s.life.stopReq = true ∨ s.inputs.envStop = true) ∧ t.life.running = false ∧
    t.life.stopping = false ∧ t.life.finalized = true ∧ t.out.sent = true

/-- A sink does not open (R112). -/
abbrev SinkFails (s : State) : Prop :=
  s.inputs.sinkOk = false ∨ (s.regs.cfgOut.getLsbD 1 = true ∧ s.inputs.captureOk = false)

theorem sinkOpenFailed_iff (s : State) : sinkOpenFailed s = true ↔ SinkFails s := by
  simp [sinkOpenFailed, captureEn, SinkFails]

/-- The transitions of R121. -/
structure LifeMoves (s t : State) : Prop where
  initialized_set : s.life.initialized = false → t.life.initialized = true → InitRuns s
  initialized_cleared : s.life.initialized = true → t.life.initialized = false →
    AmxMoves s ∧ decode s.regs.cmdl.word = .command .quit ∧ s.life.finalized = true ∧ s.out.sent = false
  running_set : s.life.running = false → t.life.running = true → InitRuns s ∧ ¬SinkFails s
  running_cleared : s.life.running = true → t.life.running = false → BlockStops s t
  stopping_set : s.life.stopping = false → t.life.stopping = true →
    AmxMoves s ∧ s.regs.busy = true ∧ decode s.regs.cmdl.word = .command .quit ∧
      s.life.running = true ∧ t.life.running = true
  stopping_cleared : s.life.stopping = true → t.life.stopping = false → BlockStops s t
  finalized_set : s.life.finalized = false → t.life.finalized = true →
    BlockStops s t ∨ (InitRuns s ∧ SinkFails s)
  finalized_stays : s.life.finalized = true → t.life.running = false ∧
    (t.life.finalized = true ∨ t.life.initialized = false)
  sinkFail_written : t.life.sinkFail ≠ s.life.sinkFail → InitRuns s

/-! QUIT's request sets `quitPending`, and the stop flags of a block that is not finalized. -/

@[simp] theorem quitRequested_initialized (s : State) :
    (quitRequested s).life.initialized = s.life.initialized := by
  rw [quitRequested_eq]
  split <;> rfl

@[simp] theorem quitRequested_running (s : State) : (quitRequested s).life.running = s.life.running := by
  rw [quitRequested_eq]
  split <;> rfl

@[simp] theorem quitRequested_stopping (s : State) :
    (quitRequested s).life.stopping = (s.life.stopping || !s.life.finalized) := by
  rw [quitRequested_eq]
  split <;> simp_all [State.pendQuit]

@[simp] theorem quitRequested_finalized (s : State) : (quitRequested s).life.finalized = s.life.finalized := by
  rw [quitRequested_eq]
  split <;> rfl

@[simp] theorem quitRequested_sinkFail (s : State) : (quitRequested s).life.sinkFail = s.life.sinkFail := by
  rw [quitRequested_eq]
  split <;> rfl

@[simp] theorem quitRequested_sent (s : State) : (quitRequested s).out.sent = s.out.sent := by
  rw [quitRequested_eq]
  split <;> rfl

theorem quitRequested_life_congr (h : t.life = s.life) : (quitRequested t).life = (quitRequested s).life := by
  rw [quitRequested_eq, quitRequested_eq, h]
  split <;> simp [State.pendQuit, requestStop, h]

/-! ### What each kind of step does to the lifecycle -/

theorem LifeInv.not_running_of_finalized (h : LifeInv s) (finalized : s.life.finalized = true) :
    s.life.running = false := by
  by_cases initialized : s.life.initialized = true
  · simpa [finalized] using h.alive initialized
  · obtain ⟨stopped, -⟩ := h.dead (Bool.eq_false_of_not_eq_true initialized)
    exact stopped

theorem LifeInv.not_stopping (h : LifeInv s) (stopped : s.life.running = false) : s.life.stopping = false := by
  by_contra stopping
  simp [h.stopping (by simpa using stopping)] at stopped

theorem LifeMoves.of_flags (h : LifeInv s) (flags : t.life.flags = s.life.flags) : LifeMoves s t := by
  simp only [Life.flags, Life.mk.injEq] at flags
  obtain ⟨initialized, running, stopping, finalized, sinkFail, -⟩ := flags
  have stays := h.not_running_of_finalized
  constructor <;> simp_all

theorem LifeMoves.of_stop (h : LifeInv s) (moves : AmxMoves s) (phase : s.eng.phase = .idle ∨ s.eng.phase = .hold)
    (stop : StopActed s t) : LifeMoves s t := by
  obtain ⟨cause, -, flags, sent, -⟩ := stop
  have running : s.life.running = true := cause.elim (fun req => h.stopping (h.stopReq ▸ req)) And.left
  simp only [Life.flags, Life.mk.injEq, finalize_initialized, finalize_running, finalize_stopping,
    finalize_finalized, finalize_sinkFail] at flags
  obtain ⟨initialized, stopped, stopping, finalized, sinkFail, -⟩ := flags
  have stops : BlockStops s t :=
    ⟨moves, phase, running, cause.imp_right And.right, stopped, stopping, finalized, sent⟩
  exact {
    initialized_set := fun dead alive => by simp [initialized, dead] at alive
    initialized_cleared := fun alive dead => by simp [initialized, alive] at dead
    running_set := fun _ run => by simp [stopped] at run
    running_cleared := fun _ _ => stops
    stopping_set := fun _ request => by simp [stopping] at request
    stopping_cleared := fun _ _ => stops
    finalized_set := fun _ _ => .inl stops
    finalized_stays := fun _ => ⟨stopped, .inl finalized⟩
    sinkFail_written := fun changed => absurd sinkFail changed }

theorem LifeMoves.of_init (h : LifeInv s) (init : InitRuns s)
    (running : t.life.running = true → ¬SinkFails s) (stopping : t.life.stopping = false)
    (finalized : t.life.finalized = true → SinkFails s) : LifeMoves s t := by
  have ⟨_, _, dead⟩ := init
  obtain ⟨notRunning, notStopping, notFinalized, -⟩ := h.dead dead
  exact {
    initialized_set := fun _ _ => init
    initialized_cleared := fun alive => by simp [dead] at alive
    running_set := fun _ run => ⟨init, running run⟩
    running_cleared := fun run => by simp [notRunning] at run
    stopping_set := fun _ request => by simp [stopping] at request
    stopping_cleared := fun request => by simp [notStopping] at request
    finalized_set := fun _ final => .inr ⟨init, finalized final⟩
    finalized_stays := fun final => by simp [notFinalized] at final
    sinkFail_written := fun _ => init }

/-- QUIT holds: it requests the stop of a block that still runs. -/
theorem LifeMoves.of_quitHolds (h : LifeInv s) (initialized : s.life.initialized = true) (moves : AmxMoves s)
    (busy : s.regs.busy = true) (word : decode s.regs.cmdl.word = .command .quit)
    (life : t.life = (quitRequested s).life) : LifeMoves s t := by
  exact {
    initialized_set := fun dead alive => by simp [life, dead] at alive
    initialized_cleared := fun alive dead => by simp [life, alive] at dead
    running_set := fun stopped run => by simp [life, stopped] at run
    running_cleared := fun run stopped => by simp [life, run] at stopped
    stopping_set := fun quiet request =>
      have alive : s.life.finalized = false := by simpa [life, quiet] using request
      have running : s.life.running = true := by simpa [alive] using h.alive initialized
      ⟨moves, busy, word, running, by simp [life, running]⟩
    stopping_cleared := fun request quiet => by simp [life, request] at quiet
    finalized_set := fun alive final => by simp [life, alive] at final
    finalized_stays := fun final => ⟨by simp [life, h.not_running_of_finalized final], .inl (by simp [life, final])⟩
    sinkFail_written := fun changed => by simp [life] at changed }

/-- QUIT completes: the block was finalized before, so it neither runs nor stops. -/
theorem LifeMoves.of_quitCompletes (h : LifeInv s) (moves : AmxMoves s)
    (word : decode s.regs.cmdl.word = .command .quit) (finalized : s.life.finalized = true)
    (popped : s.out.sent = false) (life : t.life.flags = { Life.reset with sinkFail := s.life.sinkFail }) :
    LifeMoves s t := by
  simp only [Life.flags, Life.reset, Life.mk.injEq] at life
  obtain ⟨dead, stopped, quiet, alive, sinkFail, -⟩ := life
  have notRunning := h.not_running_of_finalized finalized
  have notStopping := h.not_stopping notRunning
  exact {
    initialized_set := fun _ init => by simp [dead] at init
    initialized_cleared := fun _ _ => ⟨moves, word, finalized, popped⟩
    running_set := fun _ run => by simp [stopped] at run
    running_cleared := fun run => by simp [notRunning] at run
    stopping_set := fun _ request => by simp [quiet] at request
    stopping_cleared := fun request => by simp [notStopping] at request
    finalized_set := fun _ final => by simp [alive] at final
    finalized_stays := fun _ => ⟨stopped, .inr dead⟩
    sinkFail_written := fun changed => absurd sinkFail changed }

theorem LifeMoves.of_command (h : Inv s) {i : Instr} (moves : AmxMoves s) (ready : commandReady s = true)
    (word : decode s.regs.cmdl.word = .command i) (done : Executed (beginTurn s) i t) : LifeMoves s t := by
  obtain ⟨busy, ready⟩ := h.ready_cases ready
  cases done with
  | turnedAway away =>
    obtain ⟨c, -, -, -, rfl⟩ := away
    exact .of_flags h.life rfl
  | initFailed dead failed =>
    obtain ⟨idle, free⟩ := ready.resolve_left (by simp [word])
    have fails := (sinkOpenFailed_iff s).1 failed
    exact .of_init h.life ⟨⟨moves, busy, free, idle⟩, word, dead⟩ (by simp) rfl fun _ => fails
  | initRunning dead opened =>
    obtain ⟨idle, free⟩ := ready.resolve_left (by simp [word])
    have opens : ¬SinkFails s := by
      rw [← sinkOpenFailed_iff]
      exact Bool.eq_false_iff.1 opened
    exact .of_init h.life ⟨⟨moves, busy, free, idle⟩, word, dead⟩ (fun _ => opens) rfl (by simp)
  | quitCompletes _ complete =>
    obtain ⟨finalized, popped⟩ := quitMayComplete_iff.1 complete
    simp only [quitRequested_finalized, quitRequested_sent] at finalized popped
    exact .of_quitCompletes h.life moves word finalized popped 
      (by simp [Life.flags, Life.reset, endLifetime])
  | quitHolds initialized => exact .of_quitHolds h.life initialized moves busy word (quitRequested_life_congr rfl)
  | opened | closed | started | stopped | level | answered => exact .of_flags h.life rfl

theorem step_lifeMoves (h : Inv s) (hs : step s = .next t) (notReset : currentTurn s ≠ .setReset true) :
    LifeMoves s t := by
  obtain ⟨-, flags⟩ | ⟨turn, -⟩ | ⟨moves, phase, stop⟩ | ⟨-, -, -, -, flags⟩ | ⟨i, moves, ready, word, done⟩ :=
    step_effect hs
  · exact .of_flags h.life flags
  · exact absurd turn notReset
  · exact .of_stop h.life moves phase stop
  · exact .of_flags h.life flags
  · exact .of_command h moves ready word done

/-- INIT writes SINK_FAIL as the sink inputs say (R112). -/
theorem execInit_sinkFail (dead : s.life.initialized = false) (h : execInit s = .next t) :
    t.life.sinkFail = sinkOpenFailed s := by
  rw [execInit, if_neg (by simp [dead])] at h
  split at h <;> rw [next_inj h] <;> rfl

theorem step_sinkFail (init : InitRuns s) (h : step s = .next t) : t.life.sinkFail = true ↔ SinkFails s := by
  obtain ⟨runs, word, dead⟩ := init
  rw [stepRunsLatchedCommand s .init runs word] at h
  rw [execInit_sinkFail (s := beginTurn s) dead h]
  exact sinkOpenFailed_iff s

/-- R121: the values of GSTATE, PAUSED and HOLD apart. -/
theorem LifeInv.gstate_values (h : LifeInv s) :
    gstateWord s &&& 0x2F#32 ∈ ([0x00, 0x20, 0x03, 0x07, 0x09, 0x29] : List Word) := by
  have alive := h.alive
  have dead (d : s.life.initialized = false) :
      s.life.running = false ∧ s.life.stopping = false ∧ s.life.finalized = false := by
    obtain ⟨running, stopping, finalized, -⟩ := h.dead d
    exact ⟨running, stopping, finalized⟩
  have stopping := h.stopping
  have sinkFail := h.sinkFail
  clear h
  unfold gstateWord
  generalize s.life.initialized = i, s.life.running = r, s.life.stopping = st, s.life.finalized = f,
    s.inputs.pause = p, s.life.sinkFail = k, gstateHold s = hold at *
  revert i r st f p k hold
  decide

/-- R25: HOLD shows only with RUNNING. -/
theorem LifeInv.gstate_hold (h : LifeInv s) : gstateWord s &&& 0x40#32 ≠ 0 → gstateWord s &&& 0x02#32 ≠ 0 := by
  have holds (hold : gstateHold s = true) : s.life.running = true := by
    have phase : s.eng.phase = .hold := by simpa [gstateHold] using hold
    exact h.phase (by simp [phase])
  clear h
  unfold gstateWord
  generalize s.life.initialized = i, s.life.running = r, s.life.stopping = st, s.life.finalized = f,
    s.inputs.pause = p, s.life.sinkFail = k, gstateHold s = hold at *
  revert i r st f p k hold
  decide

/-- Settles O55: the invariant gives the values of GSTATE, `step_lifeMoves` the transitions. -/
theorem lifecycleFollowsItsStates : Obligations.LifecycleFollowsItsStates := by
  intro s h
  refine ⟨h.life.gstate_values, h.life.gstate_hold, fun t hs notReset => ?_⟩
  have moves := step_lifeMoves h hs notReset
  exact ⟨moves.initialized_set, moves.initialized_cleared, moves.running_set, moves.running_cleared,
    moves.stopping_set, moves.stopping_cleared, moves.finalized_set, moves.finalized_stays,
    moves.sinkFail_written, fun init => step_sinkFail init hs⟩

end Sys2Proof.Machine

/-! PROOFS. The placed command, the host's registers and the events of a cycle (10_state.md R22-R34, R45,
20_memory.md R80, 46_notify.md R244-R247): O6, O45, O46, O48, O49, O50, O51. -/

namespace Sys2Proof.Machine

variable {s t : State}

/-! ### The command that withFetchWord places -/

/-- The fields of a command's word (R90). -/
theorem encode_fields {i : Instr} (h : i.wf) :
    rsvdField (encode i) = 0 ∧ portBits (encode i) = i.portField ∧ opField (encode i) = i.opcode := by
  have port : i.portField < 256 := h
  have opcode : i.opcode < 256 := by cases i <;> simp [Instr.opcode]
  have word : (encode i).toNat = i.portField * 256 + i.opcode := by
    rw [encode, BitVec.toNat_ofNat, Nat.mod_eq_of_lt (by omega)]
  simp only [rsvdField, portBits, opField, word]
  omega

theorem decode_encode {i : Instr} (h : i.wf) : decode (encode i) = .command i := by
  obtain ⟨rsvd, port, opcode⟩ := encode_fields h
  simp only [decode, rsvd, port, opcode]
  cases i <;> simp [Instr.opcode, Instr.portField, needsPortZero]

theorem amxFirst_headD (turns : List Turn) : (amxFirst turns).headD .amx = .amx := by
  cases turns <;> rfl

theorem amxFirst_tail (turns : List Turn) : (amxFirst turns).tail = turns := by
  cases turns <;> rfl

/-- Settles O6: the placed state is one in which the command runs, by `decode_encode`. -/
theorem fetchWordRuns : Obligations.FetchWordRuns := by
  intro s i wf
  have placed : BitVec.ofNat 32 ((encode i).toNat % 2 ^ 32) = encode i := by
    rw [Nat.mod_eq_of_lt (encode i).isLt, BitVec.ofNat_toNat, BitVec.setWidth_eq]
  have turn : currentTurn (s.withFetchWord 32 (encode i).toNat) = .amx := amxFirst_headD s.turns
  have turns : (s.withFetchWord 32 (encode i).toNat).turns.tail = s.turns := amxFirst_tail s.turns
  have word : decode (s.withFetchWord 32 (encode i).toNat).regs.cmdl.word = .command i := by
    rw [show (s.withFetchWord 32 (encode i).toNat).regs.cmdl.word = encode i from placed, decode_encode wf]
  rw [stepRunsLatchedCommand _ i ⟨⟨turn, rfl⟩, rfl, rfl, rfl⟩ word, turns]
  simp only [State.withFetchWord, acceptCommand, placed]

/-! ### The host's accesses -/

/-- A 32-bit read of a register (R80). -/
theorem step_hostRead {off : BitVec 8} {r : Reg} (turn : currentTurn s = .hostRead off 32)
    (released : s.inputs.resetIn = false) (target : busTarget off 32 = some r) :
    step s = .next ((readEffect (beginTurn s) r).respond false (regRead (beginTurn s) r)) := by
  have reads : hostRead off 32 (beginTurn s) =
      (readEffect (beginTurn s) r).respond false (regRead (beginTurn s) r) := by
    simp only [hostRead, beginTurn_inputs, released, target, Bool.false_eq_true, if_false]
  rw [step, turn, takeTurn, reads]

/-- A 32-bit write to a register (R80). -/
theorem step_hostWrite {off : BitVec 8} {v : Word} {r : Reg} (turn : currentTurn s = .hostWrite off 32 v)
    (released : s.inputs.resetIn = false) (target : busTarget off 32 = some r) :
    step s = .next ((regWrite (beginTurn s) v r).respond false 0) := by
  have writes : hostWrite off 32 v (beginTurn s) = (regWrite (beginTurn s) v r).respond false 0 := by
    simp only [hostWrite, beginTurn_inputs, released, target, Bool.false_eq_true, if_false]
  rw [step, turn, takeTurn, writes]

/-- Settles O46: the cases of `writeCmd`. -/
theorem cmdWriteFollowsItsRule : Obligations.CmdWriteFollowsItsRule := by
  intro s released
  refine ⟨fun w turn free => ?_, fun w turn busy => ?_, fun turn => step_hostRead turn released rfl⟩
  · rw [step_hostWrite turn released (r := .cmd) rfl, regWrite, writeCmd, if_neg (by simp [free])]
    rfl
  · rw [step_hostWrite turn released (r := .cmd) rfl, regWrite, writeCmd, if_pos (by simp [busy])]
    rfl

/-- Settles O48: `regRead` and `readEffect` at each offset of the map. -/
theorem registerReadsFollowTheMap : Obligations.RegisterReadsFollowTheMap := by
  intro s off turn released
  have returns {o : BitVec 8} {r : Reg} (h : off = o) (target : busTarget o 32 = some r)
      (quiet : readEffect (beginTurn s) r = beginTurn s) :
      step s = .next { s with turns := s.turns.tail, outputs := [.bus false (regRead s r)] } := by
    rw [step_hostRead turn released (h ▸ target), quiet]
    cases r <;> rfl
  exact ⟨fun h => returns h (r := .cmd) rfl rfl, fun h => returns h (r := .cmdstat) rfl rfl,
    fun h => returns h (r := .gstate) rfl rfl, fun h => returns h (r := .portsInUse) rfl rfl,
    fun h => returns h (r := .arg0) rfl rfl, fun h => returns h (r := .arg1) rfl rfl,
    fun h => returns h (r := .arg2) rfl rfl, fun h => returns h (r := .arg3) rfl rfl,
    fun h => returns h (r := .res0) rfl rfl, fun h => returns h (r := .res1) rfl rfl,
    fun h => returns h (r := .res2) rfl rfl, fun h => returns h (r := .res3) rfl rfl,
    fun h => returns h (r := .res4) rfl rfl, fun h => returns h (r := .res5) rfl rfl,
    fun h => returns h (r := .cfgRegionBase) rfl rfl, fun h => returns h (r := .cfgIndexBase) rfl rfl,
    fun h => returns h (r := .cfgOut) rfl rfl, fun h => step_hostRead turn released (r := .cycleLo) (h ▸ rfl),
    fun h => returns h (r := .cycleHi) rfl rfl, fun h => step_hostRead turn released (r := .startTsLo) (h ▸ rfl),
    fun h => returns h (r := .startTsHi) rfl rfl, fun h => returns h (r := .qstat) rfl rfl⟩

/-- The bits that a CFG register keeps: the low `n` bits read 0. -/
theorem and_mask_eq_append {n m : Nat} (v : BitVec (m + n)) :
    v &&& (BitVec.allOnes m ++ 0#n) = v.extractLsb' n m ++ 0#n := by
  refine BitVec.eq_of_getLsbD_eq fun j hj => ?_
  simp only [BitVec.getLsbD_and, BitVec.getLsbD_append, BitVec.getLsbD_allOnes, BitVec.getLsbD_extractLsb',
    BitVec.getLsbD_zero]
  by_cases low : j < n
  · simp [low]
  · simp [low, Nat.add_sub_cancel' (Nat.le_of_not_lt low), Bool.and_comm]

theorem and_low_mask_eq_extract (v : Word) : v &&& 0x00000003#32 = (v.extractLsb' 0 2).setWidth 32 := by
  apply BitVec.eq_of_toNat_eq
  have mask : v.toNat &&& 3 = v.toNat % 4 := Nat.and_two_pow_sub_one_eq_mod v.toNat 2
  have small : v.toNat % 4 < 2 ^ 32 := by omega
  rw [BitVec.toNat_and, show (0x00000003#32).toNat = 3 from rfl, mask, BitVec.toNat_setWidth,
    BitVec.extractLsb'_toNat, Nat.shiftRight_zero, Nat.mod_eq_of_lt small]

/-- Settles O50: `regWrite` at each offset of the map. -/
theorem registerWritesFollowTheMap : Obligations.RegisterWritesFollowTheMap := by
  intro s off v turn released leaves
  have writes {o : BitVec 8} {r : Reg} {regs : Regs} (h : off = o) (target : busTarget o 32 = some r)
      (eq : regWrite (beginTurn s) v r = { beginTurn s with regs := regs }) : leaves regs := by
    show step s = _
    rw [step_hostWrite turn released (h ▸ target), eq]
    rfl
  have uninit (dead : s.life.initialized = false) (regs : Regs) :
      whenUninit (beginTurn s) regs = { beginTurn s with regs := regs } := if_neg (by simp [dead])
  have ignored (alive : s.life.initialized = true) (regs : Regs) : whenUninit (beginTurn s) regs = beginTurn s :=
    if_pos alive
  refine ⟨fun h => writes h (r := .cmdstat) rfl ?_, fun h => writes h (r := .arg0) rfl rfl,
    fun h => writes h (r := .arg1) rfl rfl, fun h => writes h (r := .arg2) rfl rfl,
    fun h => writes h (r := .arg3) rfl rfl,
    fun dead => ⟨fun h => writes h (r := .cfgRegionBase) rfl ?_, fun h => writes h (r := .cfgIndexBase) rfl ?_,
      fun h => writes h (r := .cfgOut) rfl ?_⟩,
    fun alive h => ?_, fun h => ?_⟩
  · cases hv : v.getLsbD 9 <;> simp only [regWrite, beginTurn_regs, hv] <;> simp
  · rw [regWrite, uninit dead, show (0xFFFFFFFC#32) = BitVec.allOnes 30 ++ 0#2 from rfl,
      and_mask_eq_append (m := 30) (n := 2)]
    rfl
  · rw [regWrite, uninit dead, show (0xFFFFFFF8#32) = BitVec.allOnes 29 ++ 0#3 from rfl,
      and_mask_eq_append (m := 29) (n := 3)]
    rfl
  · rw [regWrite, uninit dead, and_low_mask_eq_extract]
    rfl
  · simp only [List.mem_cons, List.not_mem_nil, or_false] at h
    obtain h | h | h := h
    · exact writes h (r := .cfgRegionBase) rfl (ignored alive _)
    · exact writes h (r := .cfgIndexBase) rfl (ignored alive _)
    · exact writes h (r := .cfgOut) rfl (ignored alive _)
  · simp only [List.mem_cons, List.not_mem_nil, or_false] at h
    obtain h | h | h | h | h | h | h | h | h | h | h | h | h := h
    · exact writes h (r := .gstate) rfl rfl
    · exact writes h (r := .portsInUse) rfl rfl
    · exact writes h (r := .res0) rfl rfl
    · exact writes h (r := .res1) rfl rfl
    · exact writes h (r := .res2) rfl rfl
    · exact writes h (r := .res3) rfl rfl
    · exact writes h (r := .res4) rfl rfl
    · exact writes h (r := .res5) rfl rfl
    · exact writes h (r := .cycleLo) rfl rfl
    · exact writes h (r := .cycleHi) rfl rfl
    · exact writes h (r := .startTsLo) rfl rfl
    · exact writes h (r := .startTsHi) rfl rfl
    · exact writes h (r := .qstat) rfl rfl

/-! ### Reset -/

/-- Settles O51: `hardReset` when the input is asserted, and no effect of a turn while it is. -/
theorem hardResetFollowsItsRule : Obligations.HardResetFollowsItsRule := by
  intro s
  refine ⟨fun turn => ⟨hardReset { beginTurn s with inputs := { s.inputs with resetIn := true } }, ?_⟩,
    fun asserted turn => ?_⟩
  · have reset : step s = .next (hardReset { beginTurn s with inputs := { s.inputs with resetIn := true } }) := by
      rw [step, turn]
      rfl
    exact ⟨reset, rfl, rfl, rfl, rfl, rfl, rfl, rfl, rfl, rfl, rfl, rfl, fun _ => rfl⟩
  · have asserted' : (beginTurn s).inputs.resetIn = true := asserted
    obtain turn | ⟨off, width, turn⟩ | ⟨off, width, v, turn⟩ := turn <;> rw [step, turn, takeTurn]
    · rw [amxStep, if_pos asserted']
      rfl
    · rw [hostRead, if_pos asserted']
      rfl
    · rw [hostWrite, if_pos asserted']
      rfl

/-! ### The status words -/

/-- CMDSTAT: STATUS, BUSY and OVERRUN, zeros elsewhere (R24). -/
theorem cmdstatWord_fields (s : State) :
    (cmdstatWord s).extractLsb' 0 8 = (statusCode s.regs.status).setWidth 8 ∧
    (cmdstatWord s).getLsbD 8 = s.regs.busy ∧ (cmdstatWord s).getLsbD 9 = s.regs.overrun ∧
    (cmdstatWord s).extractLsb' 10 22 = 0 := by
  unfold cmdstatWord
  generalize s.regs.status = c, s.regs.busy = busy, s.regs.overrun = overrun
  cases c <;> revert busy overrun <;> decide

/-- GSTATE: seven flags, zeros elsewhere (R25). -/
theorem gstateWord_fields (s : State) :
    (gstateWord s).getLsbD 0 = s.life.initialized ∧ (gstateWord s).getLsbD 1 = s.life.running ∧
    (gstateWord s).getLsbD 2 = s.life.stopping ∧ (gstateWord s).getLsbD 3 = s.life.finalized ∧
    (gstateWord s).getLsbD 4 = s.inputs.pause ∧ (gstateWord s).getLsbD 5 = s.life.sinkFail ∧
    (gstateWord s).getLsbD 6 = gstateHold s ∧ (gstateWord s).extractLsb' 7 25 = 0 := by
  unfold gstateWord
  generalize s.life.initialized = i, s.life.running = r, s.life.stopping = st, s.life.finalized = f,
    s.inputs.pause = p, s.life.sinkFail = k, gstateHold s = hold
  revert i r st f p k hold
  decide

theorem getElem_bitAt (b : Bool) (k j : Nat) (hj : j < 32) : (bitAt b k)[j] = (b && decide (j = k)) := by
  cases b
  · simp [bitAt]
  · rw [bitAt, if_pos rfl, BitVec.getElem_shiftLeft, BitVec.getElem_one]
    simp only [Bool.true_and]
    by_cases below : j < k
    · simp [below, Nat.ne_of_lt below]
    · simp only [below, decide_false, Bool.not_false, Bool.true_and, decide_eq_decide]
      omega

/-- QSTAT: its four fields at their places, zeros elsewhere (R33). -/
theorem qstatWord_fields (s : State) :
    (qstatWord s).extractLsb' 0 6 = BitVec.ofNat 6 s.out.q.length ∧
    (qstatWord s).extractLsb' 8 5 = BitVec.ofNat 5 s.out.wslot.val ∧
    (qstatWord s).extractLsb' 16 8 = BitVec.ofNat 8 s.out.wmix ∧ (qstatWord s).getLsbD 28 = s.out.sent ∧
    qstatWord s &&& 0xEF00E0C0#32 = 0 := by
  unfold qstatWord
  generalize BitVec.ofNat 6 s.out.q.length = count, BitVec.ofNat 5 s.out.wslot.val = slot,
    BitVec.ofNat 8 s.out.wmix = mix, s.out.sent = sent
  refine ⟨?_, ?_, ?_, ?_, ?_⟩
  case refine_4 => simp [getElem_bitAt]
  all_goals
    ext j hj
    interval_cases j <;> simp [getElem_bitAt]

/-- Settles O49: each word's fields are read back from their places. -/
theorem statusWordsShowTheirFields : Obligations.StatusWordsShowTheirFields := by
  intro s hq hw
  obtain ⟨status, busy, overrun, rest⟩ := cmdstatWord_fields s
  obtain ⟨g0, g1, g2, g3, g4, g5, g6, gRest⟩ := gstateWord_fields s
  obtain ⟨count, slot, mix, sent, qRest⟩ := qstatWord_fields s
  refine ⟨?_, busy, overrun, rest, g0, g1, g2, g3, g4, g5, ?_, gRest, ?_, ?_, ?_, sent, qRest⟩
  · rw [status]
    cases s.regs.status <;> rfl
  · rw [g6]
    exact beq_iff_eq
  · rw [count, BitVec.toNat_ofNat, Nat.mod_eq_of_lt (by omega)]
  · rw [slot, BitVec.toNat_ofNat, Nat.mod_eq_of_lt s.out.wslot.isLt]
  · rw [mix, BitVec.toNat_ofNat, Nat.mod_eq_of_lt hw]

/-! ### The events of a cycle -/

/-- Entry `n f + c` of the rows of a table whose rows all have length `n` is entry `c` of row `f`. -/
theorem getD_flatten_of_length {α : Type} {l : List (List α)} {n : Nat} (rows : ∀ r ∈ l, r.length = n) (d : α)
    {f c : Nat} (hc : c < n) : l.flatten.getD (n * f + c) d = (l.getD f []).getD c d := by
  induction l generalizing f with
  | nil => simp
  | cons r l ih =>
    have hr : r.length = n := rows r (by simp)
    cases f with
    | zero => simp [List.getD_eq_getElem?_getD, List.getElem?_append_left (hr ▸ hc)]
    | succ f =>
      have beyond : r.length ≤ n * (f + 1) + c := by rw [hr, Nat.mul_succ]; omega
      have rest : n * (f + 1) + c - r.length = n * f + c := by rw [hr, Nat.mul_succ]; omega
      rw [List.flatten_cons, List.getD_append_right _ _ _ _ beyond, rest, ih fun x hx => rows x (by simp [hx])]
      rfl

theorem length_flatten_of_length {α : Type} {l : List (List α)} {n : Nat} (rows : ∀ r ∈ l, r.length = n) :
    l.flatten.length = l.length * n := by
  rw [List.length_flatten, List.map_congr_left rows, List.map_const', List.sum_replicate_nat]

theorem length_littleBytes (n v : Nat) : (littleBytes n v).length = n := by simp [littleBytes]

/-- Byte `k` of a value that is serialised least significant byte first. -/
theorem littleBytes_getD (v : F32) {k : Nat} (hk : k < 4) :
    (littleBytes 4 v.toNat).getD k 0 = v.extractLsb' (8 * k) 8 := by
  rw [littleBytes, List.getD_eq_getElem _ _ (by simpa using hk)]
  simp only [List.getElem_map, List.getElem_range]
  apply BitVec.eq_of_toNat_eq
  rw [BitVec.toNat_ofNat, BitVec.extractLsb'_toNat, Nat.shiftRight_eq_div_pow]

theorem captureBytes_eq_flatten (samples : List F32) :
    captureBytes samples = (samples.map fun v => littleBytes 4 v.toNat).flatten := List.flatMap_def ..

theorem captureBytes_length (samples : List F32) : (captureBytes samples).length = samples.length * 4 := by
  rw [captureBytes_eq_flatten, length_flatten_of_length (n := 4), List.length_map]
  intro r hr
  obtain ⟨v, -, rfl⟩ := List.mem_map.1 hr
  exact length_littleBytes ..

theorem captureBytes_getD (samples : List F32) {i k : Nat} (hi : i < samples.length) (hk : k < 4) :
    (captureBytes samples).getD (4 * i + k) 0 = (samples.getD i 0).extractLsb' (8 * k) 8 := by
  rw [captureBytes_eq_flatten, getD_flatten_of_length (n := 4) _ _ hk]
  · rw [← littleBytes_getD _ hk]
    simp [List.getD_eq_getElem?_getD, hi]
  · intro r hr
    obtain ⟨v, -, rfl⟩ := List.mem_map.1 hr
    exact length_littleBytes ..

/-- Settles O45: the events of `notifyEnd`; ACC8 is a table of rows of 8, and the capture's bytes one of rows of 4. -/
theorem rawCaptureIsFrameMajor : Obligations.RawCaptureIsFrameMajor := by
  intro s h notify beyond
  have ends : engineStep s = .next (notifyEnd s) := by
    simp only [engineStep, notify, notifyStep]
    rw [if_neg (Nat.not_lt.2 beyond)]
  have length : s.eng.acc8.flatten.length = 2048 := by
    rw [length_flatten_of_length h.acc8Frames, h.acc8]
    rfl
  refine ⟨if captureEn s then [.rawCapture s.eng.acc8.flatten] else [], ends,
    fun off => if_neg (by simpa [captureEn] using off),
    fun on => ⟨s.eng.acc8.flatten, if_pos on, length, fun f _ c hc => getD_flatten_of_length h.acc8Frames 0 hc, ?_,
      fun i hi k hk => captureBytes_getD _ (length ▸ hi) hk⟩⟩
  rw [captureBytes_length, length]

end Sys2Proof.Machine

/-! PROOFS. Bus errors, the writes to memory, and the machine that no access stops (20_memory.md R70, R76-R78, R81):
O47, O54, O59.

`step_write` says once what a step can do to memory, and that no step changes the parameters or the memory map. -/

namespace Sys2Proof.Machine

variable {s t : State}

/-! ### Bus errors -/

theorem regAt_eq_none : ∀ off : BitVec 8,
    off ∉ ([0x00, 0x04, 0x08, 0x0C, 0x10, 0x14, 0x18, 0x1C, 0x20, 0x24, 0x28, 0x2C, 0x30, 0x34, 0x40, 0x44,
      0x48, 0x50, 0x54, 0x58, 0x5C, 0x60] : List (BitVec 8)) → regAt off = none := by decide

theorem busTarget_eq_none {off : BitVec 8} {width : Nat} (h : width ≠ 32 ∨ regAt off = none) :
    busTarget off width = none := by
  unfold busTarget
  split
  · next aligned => exact h.resolve_left (not_not_intro aligned.1)
  · rfl

/-- Settles O47: no unoccupied offset is a bus target, and neither access goes on without one. -/
theorem busErrorsChangeNothing : Obligations.BusErrorsChangeNothing := by
  intro s off width v released outside turn
  have target := busTarget_eq_none (outside.imp_right (regAt_eq_none off))
  obtain turn | turn := turn
  · simp only [step, turn, takeTurn, hostRead, beginTurn_inputs, released, target, Bool.false_eq_true, if_false]
    rfl
  · simp only [step, turn, takeTurn, hostWrite, beginTurn_inputs, released, target, Bool.false_eq_true, if_false]
    rfl

/-! ### The writes of a step -/

/-- What the platform fixes is as it was: the parameters and the memory map. -/
structure SamePlatform (s t : State) : Prop where
  par : t.par = s.par
  memMap : t.memMap = s.memMap

/-- What a step of the cycle engine can do to memory: nothing, the next zero write of MIX, or NOTIFY's write of a
read-index word (R70, R199, R241). -/
inductive EngineWrite (s t : State) : Prop
  | none (mem : t.mem = s.mem)
  | zeroed (port : AtStartedPort s true) (pos : s.eng.mixPos < blockLength (s.port s.eng.mixPort))
      (mem : t.mem = stZero s.par s.mem (blockSample s.par (s.port s.eng.mixPort) s.eng.mixPos) 4)
  | published (np : Nat) (phase : s.eng.phase = .notify) (word : s.eng.notifyWord = some np)
      (port : s.eng.notifyAt < s.par.portCount) (started : (s.port s.eng.notifyAt).started = true)
      (mem : t.mem = memWrite s.par s.mem (s.port s.eng.notifyAt).readIndexAddress.toNat 8 np)

theorem stopCheck_write (h : stopCheck s = some t) : SamePlatform s t ∧ t.mem = s.mem := by
  obtain ⟨-, -, rfl⟩ | ⟨-, -, rfl⟩ := stopCheck_cases h <;> exact ⟨⟨rfl, rfl⟩, rfl⟩

theorem idleStep_write (s : State) : SamePlatform s (idleStep s) ∧ (idleStep s).mem = s.mem := by
  obtain ⟨-, eq⟩ | ⟨-, stop⟩ | ⟨-, -, -, eq⟩ | ⟨-, -, -, eq⟩ := idleStep_cases (s := s) rfl
  · rw [eq]; exact ⟨⟨rfl, rfl⟩, rfl⟩
  · exact stopCheck_write stop
  · rw [eq]; exact ⟨⟨rfl, rfl⟩, rfl⟩
  · obtain ⟨-, eq'⟩ | ⟨-, -, eq'⟩ | ⟨-, -, eq'⟩ := evaluate_cases (s := s) rfl <;>
      rw [eq, eq'] <;> exact ⟨⟨rfl, rfl⟩, rfl⟩

theorem convertStep_write (s : State) : SamePlatform s (convertStep s) ∧ (convertStep s).mem = s.mem := by
  obtain ⟨-, -, eq⟩ | ⟨-, eq⟩ := convertStep_cases (s := s) rfl <;> rw [eq] <;> exact ⟨⟨rfl, rfl⟩, rfl⟩

theorem holdStep_write (s : State) : SamePlatform s (holdStep s) ∧ (holdStep s).mem = s.mem := by
  obtain stop | ⟨-, -, eq⟩ | ⟨-, -, eq⟩ := holdStep_cases (s := s) rfl
  · exact stopCheck_write stop
  all_goals rw [eq]; exact ⟨⟨rfl, rfl⟩, rfl⟩

theorem mixStep_write (mix : s.eng.phase = .mix) (h : mixStep s = .next t) : SamePlatform s t ∧ EngineWrite s t := by
  obtain ⟨port, started, h⟩ | ⟨-, -, rfl⟩ | ⟨-, rfl⟩ := mixStep_cases h
  · obtain ⟨-, -, h⟩ | ⟨-, -, rfl⟩ | ⟨zeroing, pos, rfl⟩ | ⟨-, -, rfl⟩ := mixStarted_cases h
    · obtain ⟨-, rfl⟩ := mixRead_cases h
      exact ⟨⟨rfl, rfl⟩, .none rfl⟩
    · exact ⟨⟨rfl, rfl⟩, .none rfl⟩
    · exact ⟨⟨rfl, rfl⟩, .zeroed ⟨mix, port, started, zeroing⟩ pos rfl⟩
    · exact ⟨⟨rfl, rfl⟩, .none rfl⟩
  all_goals exact ⟨⟨rfl, rfl⟩, .none rfl⟩

theorem notifyStep_write (notify : s.eng.phase = .notify) (h : notifyStep s = .next t) :
    SamePlatform s t ∧ EngineWrite s t := by
  obtain ⟨port, started, h⟩ | ⟨-, -, rfl⟩ | ⟨-, rfl⟩ := notifyStep_cases h
  · obtain ⟨-, rfl⟩ | ⟨np, word, -, rfl⟩ := notifyStarted_cases h
    · exact ⟨⟨rfl, rfl⟩, .none rfl⟩
    · exact ⟨⟨rfl, rfl⟩, .published np notify word port started rfl⟩
  all_goals exact ⟨⟨rfl, rfl⟩, .none rfl⟩

theorem engineStep_write (h : engineStep s = .next t) : SamePlatform s t ∧ EngineWrite s t := by
  obtain ⟨-, rfl⟩ | ⟨mix, h⟩ | ⟨-, rfl⟩ | ⟨-, rfl⟩ | ⟨notify, h⟩ := engineStep_cases h
  · exact (idleStep_write s).imp_right .none
  · exact mixStep_write mix h
  · exact (convertStep_write s).imp_right .none
  · exact (holdStep_write s).imp_right .none
  · exact notifyStep_write notify h

/-- What a step can do to memory: nothing, a producer's write, or a write of the cycle engine (R70, R78). -/
inductive StepWrite (s t : State) : Prop
  | none (mem : t.mem = s.mem)
  | produced (addr : Word) (bytes : List Byte) (turn : currentTurn s = .produce addr bytes)
      (mem : t.mem = (producerWrite addr bytes s).mem)
  | engine (moves : AmxMoves s) (write : EngineWrite s t)

/-- A command keeps the list of cells itself, and so every byte (R70). -/
theorem Executed.mem {i : Instr} (h : Executed s i t) : t.mem = s.mem := by
  cases h with
  | turnedAway away =>
    obtain ⟨c, -, -, -, rfl⟩ := away
    rfl
  | quitCompletes => rw [quitRequested_eq_life]; rfl
  | quitHolds => rw [quitRequested_eq_life]
  | initFailed | initRunning | opened | closed | started | stopped | level | answered => rfl

theorem EngineWrite.of_beginTurn (h : EngineWrite (beginTurn s) t) : EngineWrite s t := by
  obtain mem | ⟨port, pos, mem⟩ | ⟨np, phase, word, port, started, mem⟩ := h
  · exact .none mem
  · exact .zeroed ⟨port.phase, port.port, port.started, port.zeroing⟩ pos mem
  · exact .published np phase word port started mem

theorem amxStep_write (turn : currentTurn s = .amx) (h : amxStep (beginTurn s) = .next t) :
    SamePlatform s t ∧ StepWrite s t := by
  obtain ⟨-, rfl⟩ | ⟨-, -, h⟩ | ⟨released, -, h⟩ := amxStep_cases h
  · exact ⟨⟨rfl, rfl⟩, .none rfl⟩
  · obtain ⟨i, -, h⟩ | ⟨w, -, rfl⟩ := runCommand_cases h
    · have done := exec_cases h
      exact ⟨⟨done.frame.par, done.frame.memMap⟩, .none done.mem⟩
    · exact ⟨⟨rfl, rfl⟩, .none rfl⟩
  · obtain ⟨⟨par, memMap⟩, write⟩ := engineStep_write h
    exact ⟨⟨par, memMap⟩, .engine ⟨turn, released⟩ write.of_beginTurn⟩

theorem step_write (h : step s = .next t) : SamePlatform s t ∧ StepWrite s t := by
  unfold step at h
  rcases hturn : currentTurn s with _ | ⟨off, width, v⟩ | ⟨off, width⟩ | _ | ⟨addr, bytes⟩ | v | v | v | v | v | v <;>
    rw [hturn] at h
  case amx => exact amxStep_write hturn h
  all_goals obtain rfl := next_inj h
  case hostWrite =>
    obtain ⟨r, o, eq⟩ := hostWrite_frame off width v (beginTurn s)
    rw [eq]
    exact ⟨⟨rfl, rfl⟩, .none rfl⟩
  case hostRead =>
    obtain ⟨r, o, eq⟩ := hostRead_frame off width (beginTurn s)
    rw [eq]
    exact ⟨⟨rfl, rfl⟩, .none rfl⟩
  case pop =>
    obtain ⟨j, rest, -, eq⟩ | ⟨-, -, eq⟩ | ⟨-, -, eq⟩ := consumerPop_cases (s := beginTurn s) rfl <;> rw [eq] <;>
      exact ⟨⟨rfl, rfl⟩, .none rfl⟩
  case produce => exact ⟨⟨rfl, rfl⟩, .produced addr bytes hturn rfl⟩
  case setReset => cases v <;> exact ⟨⟨rfl, rfl⟩, .none rfl⟩
  all_goals exact ⟨⟨rfl, rfl⟩, .none rfl⟩

/-- A byte that `MemWrite` changes is one of those it writes. -/
theorem mem_of_memWrite_changed {p : Params} {m : List Host.Cell} {a n v x : Nat}
    (h : memGet (memWrite p m a n v) x ≠ memGet m x) : ∃ k < n, x = wrapAddr p (a + k) := by
  by_contra! outside
  exact h (memGet_memWrite_outside p m a n v x outside)

/-- A byte that a producer changes is one of those it writes. -/
theorem mem_of_producerWrite_changed {addr : Word} {bytes : List Byte} {x : Nat}
    (h : memGet (producerWrite addr bytes s).mem x ≠ memGet s.mem x) :
    ∃ k < bytes.length, x = wrapAddr s.par (addr.toNat + k) := by
  by_contra! outside
  exact h (producerWrite_outside s addr bytes outside)

/-- Settles O59: `step_write` lists the writes, and each changes only bytes that it writes. -/
theorem memoryLaw : Obligations.MemoryLaw := by
  refine ⟨fun s t a h changed => ?_, fun s addr bytes wf turn fits => ?_⟩
  · obtain mem | ⟨addr, bytes, turn, mem⟩ | ⟨moves, write⟩ := (step_write h).2
    · exact absurd (by rw [mem]) changed
    · rw [mem] at changed
      exact .inl ⟨addr, bytes, turn, mem_of_producerWrite_changed changed⟩
    · obtain mem | ⟨port, pos, mem⟩ | ⟨np, phase, word, port, started, mem⟩ := write
      · exact absurd (by rw [mem]) changed
      · rw [mem] at changed
        exact .inr (.inl ⟨moves, port.phase, port.zeroing, port.port, port.started, pos,
          mem_of_memWrite_changed changed⟩)
      · rw [mem] at changed
        exact .inr (.inr ⟨moves, phase, by simp [word], port, started, mem_of_memWrite_changed changed⟩)
  · refine ⟨producerWrite addr bytes (beginTurn s), by rw [step, turn, takeTurn], fun k hk => ?_⟩
    exact producerWrite_inside (s := beginTurn s) wf addr bytes fits hk

/-! ### A fully backed machine -/

theorem accessStop_of_fullyBacked (h : FullyBacked s) (n a : Nat) : accessStop s n a = none :=
  accessStop_eq_none.2 fun _ _ => h _ (wrapAddr_lt _ _)

theorem mixStep_next (h : FullyBacked s) : ∃ t, mixStep s = .next t := by
  refine ite_next (ite_next ?_ ⟨_, rfl⟩) ⟨_, rfl⟩
  refine ite_next ⟨_, rfl⟩ (ite_next ?_ ⟨_, rfl⟩)
  simp only [mixRead, accessStop_of_fullyBacked h]
  exact ⟨_, rfl⟩

theorem notifyStep_next (h : FullyBacked s) : ∃ t, notifyStep s = .next t := by
  refine ite_next (ite_next ?_ ⟨_, rfl⟩) ⟨_, rfl⟩
  unfold notifyStarted
  split
  · exact ⟨_, rfl⟩
  · simp only [accessStop_of_fullyBacked h]
    exact ⟨_, rfl⟩

theorem engineStep_next (h : FullyBacked s) : ∃ t, engineStep s = .next t := by
  unfold engineStep
  cases s.eng.phase
  case mix => exact mixStep_next h
  case notify => exact notifyStep_next h
  all_goals exact ⟨_, rfl⟩

theorem runCommand_next (s : State) : ∃ t, runCommand s = .next t := by
  unfold runCommand
  split
  · exact exec_next _ s
  · exact ⟨_, rfl⟩

theorem step_next (h : FullyBacked s) : ∃ t, step s = .next t := by
  unfold step
  cases currentTurn s
  case amx => exact ite_next ⟨_, rfl⟩ (ite_next (runCommand_next _) (engineStep_next h))
  all_goals exact ⟨_, rfl⟩

/-- Settles O54: every step is a next state, and no step changes the address space or its map. -/
theorem fullyBackedNeverStops : Obligations.FullyBackedNeverStops := by
  intro s h n
  induction n generalizing s with
  | zero => exact ⟨s, rfl⟩
  | succ n ih =>
    obtain ⟨t, ht⟩ := step_next h
    obtain ⟨⟨par, memMap⟩, -⟩ := step_write ht
    have backed : FullyBacked t := by unfold FullyBacked; rw [par, memMap]; exact h
    obtain ⟨u, hu⟩ := ih t backed
    refine ⟨u, ?_⟩
    have core : Sys2Proof.core.step s = .next t := ht
    simp only [Host.Core.run, core]
    exact hu

end Sys2Proof.Machine

/-! PROOFS. Where the cycle engine's accesses stop, and a Started port in MIX (20_memory.md R72, R76-R79,
44_mixer.md R190-R199): O27, O33, O35.

An access goes on exactly when its bytes are plain memory (`goesOn_iff_plain`); the steps of MIX at a port whose whole
block is plain come to `mixWholePort` (`AtStartedPort.engineRun_mixWholePort`). -/

namespace Sys2Proof.Machine

variable {s t : State}

/-! ### Where an access stops -/

/-- A stop is at one of the bytes of the access. -/
theorem accessStop_eq_some {n a : Nat} {stop : Result} (h : accessStop s n a = some stop) :
    ∃ k < n, byteStop s (wrapAddr s.par (a + k)) = some stop := by
  obtain ⟨k, hk, h⟩ := List.exists_of_findSome?_eq_some h
  exact ⟨k, List.mem_range.1 hk, h⟩

theorem byteStop_eq_fault {a b : Nat} (h : byteStop s a = some (.fault (.memoryUnbacked b))) :
    b = a ∧ memKind s.memMap a = none := by
  unfold byteStop at h
  split at h <;> simp_all

theorem byteStop_eq_refused {a b : Nat} (h : byteStop s a = some (.refused (.sideEffectMemory b))) :
    b = a ∧ memKind s.memMap a = some .device := by
  unfold byteStop at h
  split at h <;> simp_all

/-- A step that makes one access and, where that does not stop, answers `u`: it goes on exactly when the bytes are
plain memory, and it stops at one of them (R76, R77). -/
theorem goesOn_iff_plain {step : Result} {u : State} {n a : Nat} (h : step = (accessStop s n a).getD (.next u)) :
    ((∃ t, step = .next t) ↔ ∀ k < n, memKind s.memMap (wrapAddr s.par (a + k)) = some .plain) ∧
    (∀ t, step = .next t → t = u) ∧
    (∀ b, step = .fault (.memoryUnbacked b) →
      memKind s.memMap b = none ∧ ∃ k < n, b = wrapAddr s.par (a + k)) ∧
    (∀ b, step = .refused (.sideEffectMemory b) →
      memKind s.memMap b = some .device ∧ ∃ k < n, b = wrapAddr s.par (a + k)) := by
  rw [← accessStop_eq_none]
  subst h
  rcases stop : accessStop s n a with _ | r
  · refine ⟨by simp, fun t ht => next_inj ht, nofun, nofun⟩
  · refine ⟨⟨?_, nofun⟩, ?_, ?_, ?_⟩
    · rintro ⟨t, rfl⟩
      exact absurd stop accessStop_not_next
    · rintro t rfl
      exact absurd stop accessStop_not_next
    · rintro b rfl
      obtain ⟨k, hk, byte⟩ := accessStop_eq_some stop
      obtain ⟨rfl, unbacked⟩ := byteStop_eq_fault byte
      exact ⟨unbacked, k, hk, rfl⟩
    · rintro b rfl
      obtain ⟨k, hk, byte⟩ := accessStop_eq_some stop
      obtain ⟨rfl, device⟩ := byteStop_eq_refused byte
      exact ⟨device, k, hk, rfl⟩

theorem mixRead_eq (i : Nat) (s : State) :
    mixRead i s = (accessStop s 4 (blockSample s.par (s.port i) s.eng.mixBuf.length)).getD
      (.next { s with eng := { s.eng with
        mixBuf := s.eng.mixBuf ++ [ldF32 s.par s.mem (blockSample s.par (s.port i) s.eng.mixBuf.length)] } }) := by
  unfold mixRead
  dsimp only
  split <;> simp [*]

theorem notifyStarted_of_word {i np : Nat} (word : s.eng.notifyWord = some np) :
    notifyStarted i s =
      (accessStop s 8 (s.port i).readIndexAddress.toNat).getD (.next (publishPort i np s)) := by
  simp only [notifyStarted, word]
  split <;> simp [*]

theorem engineStep_notifyStarted (notify : s.eng.phase = .notify) (port : s.eng.notifyAt < s.par.portCount)
    (started : (s.port s.eng.notifyAt).started = true) : engineStep s = notifyStarted s.eng.notifyAt s := by
  simp only [engineStep, notify, notifyStep, port, if_true, started]

/-- Settles O35: each of the two steps makes one access, so `goesOn_iff_plain` says when it goes on. -/
theorem readsStopAtForbiddenMemory : Obligations.ReadsStopAtForbiddenMemory := by
  constructor
  · intro s mix port started zeroing e space sample byte more
    have read : engineStep s = mixRead s.eng.mixPort s := by
      rw [AtStartedPort.step ⟨mix, port, started, zeroing⟩, mixStarted_read zeroing more]
    obtain ⟨goesOn, next, stuck, refused⟩ := goesOn_iff_plain (read.trans (mixRead_eq _ s))
    exact ⟨goesOn, next, fun j hj => ldF32_byte s.par s.mem sample hj, stuck, refused⟩
  · intro s notify port started e byte
    have step := engineStep_notifyStarted notify port started
    refine ⟨fun word => ?_, fun np word => goesOn_iff_plain (step.trans (notifyStarted_of_word word))⟩
    rw [step, notifyStarted, word]
    rfl

/-! ### A Started port in MIX -/

theorem mixStarted_block {i : Nat} (hz : s.eng.mixZeroing = false)
    (hl : blockLength (s.port i) ≤ s.eng.mixBuf.length) :
    mixStarted i s = .next (mixBlock i s.eng.mixBuf s) := by
  simp only [mixStarted, hz, Bool.false_eq_true, if_false, if_neg (Nat.not_lt.2 hl)]

theorem mixStarted_next {i : Nat} (hz : s.eng.mixZeroing = true) (hl : blockLength (s.port i) ≤ s.eng.mixPos) :
    mixStarted i s = .next (mixNext i s) := by
  simp only [mixStarted, hz, if_true, if_neg (Nat.not_lt.2 hl)]

/-- The step after the last zero write of a block. -/
theorem AtStartedPort.engineStep_mixNext (h : AtStartedPort s true)
    (done : blockLength (s.port s.eng.mixPort) ≤ s.eng.mixPos) :
    engineStep s = .next (mixNext s.eng.mixPort s) :=
  h.step.trans (mixStarted_next h.zeroing done)

/-- Settles O33: the two cases of a started port in MIX that is being zeroed. -/
theorem zeroWritesTakeTheBlock : Obligations.ZeroWritesTakeTheBlock := by
  intro s wf mix port started zeroing e ch space block written
  have atPort : AtStartedPort s true := ⟨mix, port, started, zeroing⟩
  refine ⟨fun more => ⟨mixZero s.eng.mixPort s, ?_, fun a ha => ?_, fun a ha => ?_, rfl, rfl, rfl, rfl, rfl, rfl,
    rfl⟩, atPort.engineStep_mixNext⟩
  · exact atPort.step.trans (mixStarted_zero zeroing more)
  · exact (memGet_stZero wf _ _ _).trans (if_pos ha)
  · exact (memGet_stZero wf _ _ _).trans (if_neg ha)

theorem engineRun_of_step (h : engineStep s = .next t) : ∃ n, engineRun n s = .next t := ⟨1, engineRun_succ h 0⟩

theorem engineRun_trans {u : State} (h : ∃ n, engineRun n s = .next t) (h' : ∃ n, engineRun n t = .next u) :
    ∃ n, engineRun n s = .next u := by
  obtain ⟨n, hn⟩ := h
  obtain ⟨m, hm⟩ := h'
  exact ⟨n + m, (engineRun_add hn m).trans hm⟩

/-- All sample reads of a block that is plain memory. -/
theorem AtStartedPort.engineRun_readBlock (h : AtStartedPort s false) (hb : s.eng.mixBuf = [])
    (plain : ∀ k < blockLength (s.port s.eng.mixPort),
      accessStop s 4 (blockSample s.par (s.port s.eng.mixPort) k) = none) :
    ∃ n, engineRun n s =
      .next { s with eng := { s.eng with mixBuf := readBlock s.par s.mem (s.port s.eng.mixPort) } } := by
  refine ⟨_, (h.reads hb _ le_rfl plain).trans ?_⟩
  rw [readBlock, blockSamples, List.map_map]
  rfl

/-- The step that mixes a block, once all of it is read. -/
theorem AtStartedPort.engineStep_mixBlock (h : AtStartedPort s false) {x : List F32}
    (length : blockLength (s.port s.eng.mixPort) ≤ x.length) :
    engineStep { s with eng := { s.eng with mixBuf := x } } = .next (mixBlock s.eng.mixPort x s) := by
  have read : AtStartedPort { s with eng := { s.eng with mixBuf := x } } false :=
    ⟨h.phase, h.port, h.started, h.zeroing⟩
  exact read.step.trans (mixStarted_block h.zeroing length)

/-- All zero writes of a mixed block, and the step after them. -/
theorem AtStartedPort.engineRun_zeroBlock (h : AtStartedPort s true) (h0 : s.eng.mixPos = 0) :
    ∃ n, engineRun n s = .next
      (mixNext s.eng.mixPort { s with mem := zeroBlock s.par s.mem (s.port s.eng.mixPort) }) := by
  have zeroed : AtStartedPort { s with
      mem := zeroBlock s.par s.mem (s.port s.eng.mixPort)
      eng := { s.eng with mixPos := blockLength (s.port s.eng.mixPort) } } true :=
    ⟨h.phase, h.port, h.started, h.zeroing⟩
  exact engineRun_trans ⟨_, h.zeros h0 _ le_rfl⟩ (engineRun_of_step (zeroed.engineStep_mixNext le_rfl))

/-- The steps of MIX at a Started port whose block is plain memory come to one pass of R190's loop. -/
theorem AtStartedPort.engineRun_mixWholePort (h : AtStartedPort s false) (hb : s.eng.mixBuf = [])
    (plain : ∀ k < blockLength (s.port s.eng.mixPort),
      accessStop s 4 (blockSample s.par (s.port s.eng.mixPort) k) = none) :
    ∃ n, engineRun n s = .next (mixWholePort s.eng.mixPort s) := by
  have length : (readBlock s.par s.mem (s.port s.eng.mixPort)).length = blockLength (s.port s.eng.mixPort) := by
    simp [readBlock, blockSamples]
  have mixed : AtStartedPort
      (mixBlock s.eng.mixPort (readBlock s.par s.mem (s.port s.eng.mixPort)) s) true :=
    ⟨h.phase, h.port, h.started, rfl⟩
  exact engineRun_trans (h.engineRun_readBlock hb plain)
    (engineRun_trans (engineRun_of_step (h.engineStep_mixBlock length.ge)) (mixed.engineRun_zeroBlock rfl))

/-- A frame of the accumulators after they are set. -/
theorem accFrame_setFrames (g : Engine) (fs : List Frame) {f : Nat} (hf : f < fs.length) :
    accFrame (g.setFrames fs) f = fs[f] := by
  simp [accFrame, Engine.setFrames, hf]

/-- Frame `f` of a block, as memory holds it. -/
theorem blockFrame_readBlock (p : Params) (m : List Host.Cell) (e : Port) {f : Nat} (hf : f < Config.frames) :
    blockFrame e (readBlock p m e) f =
      (List.range e.channels.toNat).map fun c => ldF32 p m (blockSample p e (f * e.channels.toNat + c)) := by
  refine List.map_congr_left fun c hc => ?_
  have inside : f * e.channels.toNat + c < blockLength e := by
    have hc := List.mem_range.1 hc
    calc f * e.channels.toNat + c < (f + 1) * e.channels.toNat := by rw [Nat.succ_mul]; omega
      _ ≤ Config.frames * e.channels.toNat := Nat.mul_le_mul_right _ hf
      _ = blockLength e := Nat.mul_comm ..
  simp [readBlock, blockSamples, List.getD_eq_getElem?_getD, inside]

/-- One pass of R190's loop mixes every frame of the port's block into the accumulators. -/
theorem accFrame_mixWholePort (i : Nat) (s : State) {f : Nat} (hf : f < Config.frames) :
    accFrame (mixWholePort i s).eng f =
      mixFrame s.par.mixK (!s.eng.anyActive) (s.draws + 32 * f) (s.port i).gain
        ((List.range (s.port i).channels.toNat).map fun c =>
          ldF32 s.par s.mem (blockSample s.par (s.port i) (f * (s.port i).channels.toNat + c)))
        (accFrame s.eng f) := by
  have set : accFrame (mixWholePort i s).eng f =
      accFrame (s.eng.setFrames (mixedFrames s (s.port i) (readBlock s.par s.mem (s.port i)))) f := rfl
  have length : f < (mixedFrames s (s.port i) (readBlock s.par s.mem (s.port i))).length := by
    simpa [mixedFrames] using hf
  rw [set, accFrame_setFrames _ _ length, ← blockFrame_readBlock _ _ _ hf]
  simp only [mixedFrames, List.getElem_map, List.getElem_range]

/-- The bytes of a block, by sample and byte of the sample. -/
theorem exists_mem_blockSamples {p : Params} {e : Port} {q : Nat → Prop} :
    (∃ a ∈ blockSamples p e, q a) ↔ ∃ k < blockLength e, q (blockSample p e k) := by
  simp [blockSamples]

/-- Settles O27: the run comes to `mixWholePort`, whose memory is `zeroBlock`'s. -/
theorem mixTakesAStartedPort : Obligations.MixTakesAStartedPort := by
  intro s wf mix port started buf zeroing e ch space block byte plain
  obtain ⟨n, run⟩ := AtStartedPort.engineRun_mixWholePort ⟨mix, port, started, zeroing⟩ buf fun k hk =>
    accessStop_eq_none.2 (plain k hk)
  refine ⟨n, _, run, fun f hf => accFrame_mixWholePort _ s hf, fun a ha => ?_, fun a ha => ?_, mix, rfl, rfl, rfl, rfl,
    rfl, rfl, rfl, rfl, rfl⟩
  · exact memGet_foldl_stZero_inside s.par _ wf 4 a (exists_mem_blockSamples.2 ha)
  · exact memGet_foldl_stZero_outside s.par _ wf 4 a (mt exists_mem_blockSamples.1 ha)

end Sys2Proof.Machine

/-! PROOFS. The steps of NOTIFY (46_notify.md R240-R247, 20_memory.md R72, R79): O43.

The run comes to `notifyPorts`; `Published` is the invariant of its loop on memory. -/

namespace Sys2Proof.Machine

variable {s t : State}

/-! ### Words of memory -/

/-- An address below the top of the space is not reduced (R75). -/
theorem wrapAddr_of_lt {p : Params} {a : Nat} (h : a < 2 ^ p.addrWidth) : wrapAddr p a = a := Nat.mod_eq_of_lt h

/-- What the byte of rank `k` contributes to a value. -/
def bytePart (v k : Nat) : Nat := v / 2 ^ (8 * k) % 2 ^ 8 * 2 ^ (8 * k)

/-- The bytes of a value add up to it. -/
theorem sum_bytePart (n v : Nat) : ∑ k ∈ Finset.range n, bytePart v k = v % 2 ^ (8 * n) := by
  induction n with
  | zero => simp [Nat.mod_one]
  | succ n ih =>
    rw [Finset.sum_range_succ, ih, bytePart, Nat.mul_succ, pow_add, Nat.mod_mul, Nat.mul_comm (2 ^ (8 * n))]

/-- The byte order of R72 takes the ranks upwards or downwards. -/
theorem sum_byteRank (p : Params) (n : Nat) (f : Nat → Nat) :
    ∑ k ∈ Finset.range n, f (byteRank p n k) = ∑ k ∈ Finset.range n, f k := by
  cases big : p.memBigEndian
  · simp [byteRank, big]
  · simpa [byteRank, big] using Finset.sum_range_reflect f n

/-- A value that memory holds byte by byte, in the order of R72, reads back. -/
theorem memRead_of_bytes {p : Params} {m : List Host.Cell} {a n v : Nat} (hv : v < 2 ^ (8 * n))
    (bytes : ∀ k < n, memGet m (wrapAddr p (a + k)) = BitVec.ofNat 8 (v / 2 ^ (8 * byteRank p n k))) :
    memRead p m a n = v := by
  have parts : memRead p m a n = ∑ k ∈ Finset.range n, bytePart v (byteRank p n k) := by
    refine congrArg List.sum (List.map_congr_left fun k hk => ?_)
    rw [bytes k (List.mem_range.1 hk), BitVec.toNat_ofNat]
    rfl
  rw [parts, sum_byteRank, sum_bytePart, Nat.mod_eq_of_lt hv]

/-- The write of an 8-byte word that ends below the top of the space leaves every byte outside the word alone. -/
theorem memGet_memWrite_of_disjoint {p : Params} {w : Nat} (fits : w + 8 ≤ 2 ^ p.addrWidth) (m : List Host.Cell)
    (v : Nat) {x : Nat} (hx : x < w ∨ w + 8 ≤ x) : memGet (memWrite p m w 8 v) x = memGet m x := by
  refine memGet_memWrite_outside p m w 8 v x fun k hk => ?_
  rw [wrapAddr_of_lt (by omega)]
  omega

/-- The bytes that the write of such a word puts there, in the order of R72. -/
theorem memGet_memWrite_word {p : Params} {w : Nat} (fits : w + 8 ≤ 2 ^ p.addrWidth) {m : List Host.Cell}
    (wf : Memory.wf m) (v : Nat) {j : Nat} (hj : j < 8) :
    memGet (memWrite p m w 8 v) (w + j) = BitVec.ofNat 8 (v / 2 ^ (8 * byteRank p 8 j)) := by
  rw [← memGet_memWrite_inside wf w v (by omega) hj, wrapAddr_of_lt (by omega)]

/-! ### NOTIFY's loop over the ports -/

/-- The ports after NOTIFY's loop over the first `k`. -/
theorem notifyPorts_port (hl : s.ports.length = s.par.portCount) {k : Nat} (hk : k ≤ s.par.portCount) (i : Nat) :
    ((List.range k).foldl notifyPort s).port i =
      if i < k ∧ (s.port i).started = true then notifiedPort s (s.port i) else s.port i := by
  induction k with
  | zero => simp
  | succ k ih =>
    obtain ⟨-, life, -, -, -, -, -, -, -, -, -, size⟩ := foldl_notifyPort_frame (List.range k) s
    have ih := ih (by omega)
    rw [List.range_succ, List.foldl_append, List.foldl_cons, List.foldl_nil, notifyPort_port k i (by omega)]
    by_cases hik : k = i
    · subst hik
      simp only [lt_irrefl, false_and, if_false] at ih
      simp [ih, notifiedPort, life]
    · have : i < k + 1 ↔ i < k := by omega
      simp [hik, ih, this]

/-- Where port `i`'s read-index word stands (R241). -/
abbrev indexWord (s : State) (i : Nat) : Nat := (s.port i).readIndexAddress.toNat

/-- Memory after NOTIFY's loop over the first `k` ports: the read-index words of the Started ones are published, and no
other byte has changed. -/
structure Published (s : State) (k : Nat) (m : List Host.Cell) : Prop where
  wf : Memory.wf m
  word : ∀ i < k, (s.port i).started = true → ∀ j < 8,
    memGet m (indexWord s i + j) = BitVec.ofNat 8 (nextPosition (s.port i) / 2 ^ (8 * byteRank s.par 8 j))
  other : ∀ a, (∀ i < k, (s.port i).started = true → a < indexWord s i ∨ indexWord s i + 8 ≤ a) →
    memGet m a = memGet s.mem a

/-- The write of one more port's word, which overlaps none of those before. -/
theorem Published.publish {k : Nat} {m : List Host.Cell} (h : Published s k m)
    (fits : indexWord s k + 8 ≤ 2 ^ s.par.addrWidth) (started : (s.port k).started = true)
    (disjoint : ∀ i < k, (s.port i).started = true →
      indexWord s i + 8 ≤ indexWord s k ∨ indexWord s k + 8 ≤ indexWord s i) :
    Published s (k + 1) (memWrite s.par m (indexWord s k) 8 (nextPosition (s.port k))) where
  wf := memWrite_wf h.wf _ _ _
  word i hi hs j hj := by
    obtain hi | rfl := Nat.lt_succ_iff_lt_or_eq.1 hi
    · have apart := disjoint i hi hs
      rw [memGet_memWrite_of_disjoint fits _ _ (by omega), h.word i hi hs j hj]
    · exact memGet_memWrite_word fits h.wf _ hj
  other a ha := by
    rw [memGet_memWrite_of_disjoint fits _ _ (ha k (by omega) started)]
    exact h.other a fun i hi => ha i (by omega)

/-- A port that is not Started has no word to publish. -/
theorem Published.skip {k : Nat} {m : List Host.Cell} (h : Published s k m) (stopped : (s.port k).started = false) :
    Published s (k + 1) m where
  wf := h.wf
  word i hi hs := by
    obtain hi | rfl := Nat.lt_succ_iff_lt_or_eq.1 hi
    · exact h.word i hi hs
    · simp [stopped] at hs
  other a ha := h.other a fun i hi => ha i (by omega)

theorem published_notifyPorts (wf : Memory.wf s.mem) (hl : s.ports.length = s.par.portCount)
    (fits : ∀ i < s.par.portCount, (s.port i).started = true → indexWord s i + 8 ≤ 2 ^ s.par.addrWidth)
    (disjoint : ∀ i j, i < s.par.portCount → (s.port i).started = true → j < s.par.portCount →
      (s.port j).started = true → i ≠ j →
      indexWord s i + 8 ≤ indexWord s j ∨ indexWord s j + 8 ≤ indexWord s i)
    {k : Nat} (hk : k ≤ s.par.portCount) : Published s k ((List.range k).foldl notifyPort s).mem := by
  induction k with
  | zero => exact ⟨wf, nofun, fun _ _ => rfl⟩
  | succ k ih =>
    have par := (foldl_notifyPort_frame (List.range k) s).1
    have port : ((List.range k).foldl notifyPort s).port k = s.port k := by
      rw [notifyPorts_port hl (by omega), if_neg (by omega)]
    rw [List.range_succ, List.foldl_append, List.foldl_cons, List.foldl_nil, notifyPort, port, par]
    split
    · next started =>
      exact (ih (by omega)).publish (fits k hk started) started fun i hi hs =>
        disjoint i k (by omega) hs hk started (by omega)
    · next stopped => exact (ih (by omega)).skip (Bool.eq_false_of_not_eq_true stopped)

theorem atNotify_eq_self {i : Nat} (notify : s.eng.phase = .notify) (port : s.eng.notifyAt = i)
    (word : s.eng.notifyWord = none) : atNotify i s = s := by
  rw [atNotify, ← notify, ← port, ← word]

/-- A read position is smaller than 2^64. -/
theorem nextPosition_lt_two_pow {e : Port} (blocks : 1 ≤ e.blockCount.toNat) : nextPosition e < 2 ^ 64 :=
  (nextPosition_lt blocks).trans (e.blockCount.isLt.trans (by decide))

/-- Settles O43: the run comes to `notifyPorts` and the events. -/
theorem notifyAdvancesMixedPorts : Obligations.NotifyAdvancesMixedPorts := by
  intro s wf size notify first noWord mixed word plain disjoint
  choose blocks fits backed using plain
  have unwrapped (i : Nat) (hi : mixed i) {j : Nat} (hj : j < 8) : wrapAddr s.par (word i + j) = word i + j := by
    have := fits i hi
    exact wrapAddr_of_lt (by omega)
  obtain ⟨n, run⟩ := engineRun_notify size fun i hi started => accessStop_eq_none.2 fun j hj => by
    rw [unwrapped i ⟨hi, started⟩ hj]
    exact backed i ⟨hi, started⟩ j hj
  rw [atNotify_eq_self notify first noWord] at run
  obtain ⟨-, life, regs, eng, out, -, -, -, outputs, draws, -, -⟩ :=
    foldl_notifyPort_frame (List.range s.par.portCount) s
  have ports (i : Nat) := notifyPorts_port size le_rfl i
  have memory := published_notifyPorts wf size (fun i hi hs => fits i ⟨hi, hs⟩)
    (fun i j hi hs hj hs' => disjoint i j ⟨hi, hs⟩ ⟨hj, hs'⟩) le_rfl
  have bytes (i : Nat) (hi : mixed i) := memory.word i hi.1 hi.2
  refine ⟨n, _, run, fun i hi => (ports i).trans (if_pos hi), fun i hi => (ports i).trans (if_neg hi),
    fun i hi => memRead_of_bytes (nextPosition_lt_two_pow (blocks i hi)) fun j hj => ?_, bytes,
    fun a ha => memory.other a fun i hi hs => ha i ⟨hi, hs⟩, ?_, ?_, regs, life, out, draws⟩
  · rw [unwrapped i hi hj]
    exact bytes i hi j hj
  · rw [notifyEnd_outputs, cycleEvents, captureEn, notifyPorts, outputs, life, regs, eng]
  · simp only [notifyEnd, notifyPorts, eng, first, noWord]

end Sys2Proof.Machine

/-! PROOFS. The decoder and the encoder (30_encoding.md R90-R92, R96, R99, 41_port_control.md R145): O1, O2, O3, O4, O7,
O17.

A word decodes to a command exactly when its three fields are the command's (`decode_eq_command_iff`).  Which words are
illegal follows from that. -/

namespace Sys2Proof.Machine

variable {s : State} {w : Word} {i : Instr}

/-! ### A word and its fields -/

theorem wf_of_portBits (port : portBits w = i.portField) : i.wf :=
  port.symm.trans_lt (Nat.mod_lt _ (by decide))

theorem encode_eq_of_fields (rsvd : rsvdField w = 0) (port : portBits w = i.portField)
    (op : opField w = i.opcode) : encode i = w := by
  have fields : i.portField * 256 + i.opcode = w.toNat := by
    rw [← port, ← op]
    unfold rsvdField at rsvd
    unfold portBits opField
    omega
  rw [encode, fields, BitVec.ofNat_toNat, BitVec.setWidth_eq]

/-! ### The decoder -/

theorem needsPortZero_eq_command {port : Nat} {j : Instr} (h : needsPortZero port j = .command i) :
    port = 0 ∧ j = i := by
  unfold needsPortZero at h
  split at h
  · next zero => exact ⟨zero, Decoded.command.inj h⟩
  · cases h

/-- A word decodes to the command whose fields it has (R90, R91), and to no other. -/
theorem decode_eq_command_iff :
    decode w = .command i ↔ rsvdField w = 0 ∧ portBits w = i.portField ∧ opField w = i.opcode := by
  constructor
  · intro h
    unfold decode at h
    split at h
    · cases h
    · next rsvd =>
      refine ⟨not_not.1 rsvd, ?_⟩
      split at h
      case h_1 op | h_2 op | h_3 op =>
        obtain ⟨port, rfl⟩ := needsPortZero_eq_command h
        exact ⟨port, op⟩
      case h_12 => cases h
      all_goals
        next op =>
        obtain rfl := Decoded.command.inj h
        exact ⟨rfl, op⟩
  · rintro ⟨rsvd, port, op⟩
    rw [← encode_eq_of_fields rsvd port op]
    exact decode_encode (wf_of_portBits port)

/-- Settles O1: each word is decoded. -/
theorem wordsOfTheMapDecode : Obligations.WordsOfTheMapDecode := by
  unfold Obligations.WordsOfTheMapDecode
  decide

/-! ### The encoder -/

/-- Settles O3: this is `decode_encode`, as the fields of an encoded command are the command's. -/
theorem decodeEncodeAgree : Obligations.DecodeEncodeAgree := fun _ wf => decode_encode wf

theorem encode_matchesRow (i : Instr) : Laws.MatchesRow.Statement i := by
  cases i with
  | init => exact Laws.MatchesRow.init
  | quit => exact Laws.MatchesRow.quit
  | portOpen => exact Laws.MatchesRow.portOpen
  | portClose p => exact Laws.MatchesRow.portClose p
  | portStart p => exact Laws.MatchesRow.portStart p
  | portStop p => exact Laws.MatchesRow.portStop p
  | setPortLevel p => exact Laws.MatchesRow.setPortLevel p
  | getPortConfig p => exact Laws.MatchesRow.getPortConfig p
  | getPortTimestamp p => exact Laws.MatchesRow.getPortTimestamp p
  | getPortBlockTag p => exact Laws.MatchesRow.getPortBlockTag p
  | addData p => exact Laws.MatchesRow.addData p

/-- Settles O4: the word's fields are the command's, so the word is its encoding, which selects its row. -/
theorem encodeDecodeAgree : Obligations.EncodeDecodeAgree := by
  intro w i h
  obtain ⟨rsvd, port, op⟩ := decode_eq_command_iff.1 h
  obtain rfl := encode_eq_of_fields rsvd port op
  exact ⟨wf_of_portBits port, rfl, beq_iff_eq.1 (encode_matchesRow i (wf_of_portBits port))⟩

/-! ### The opcode map -/

/-- The OP values of the opcode map (R92). -/
def opcodeMap : List (BitVec 8) := [0x01, 0x02, 0x10, 0x11, 0x12, 0x13, 0x14, 0x20, 0x21, 0x22, 0x30]

/-- The OP values of INIT, QUIT and PORT_OPEN, whose PORT must be 0 (R91). -/
def portlessOpcodes : List (BitVec 8) := [0x01, 0x02, 0x10]

theorem mem_opcodeMap_of_opcode {op : BitVec 8} (h : i.opcode = op.toNat) : op ∈ opcodeMap := by
  obtain rfl : BitVec.ofNat 8 i.opcode = op := by rw [h, BitVec.ofNat_toNat, BitVec.setWidth_eq]
  cases i <;> simp [Instr.opcode, opcodeMap]

theorem portField_eq_zero_of_opcode {op : BitVec 8} (h : i.opcode = op.toNat) (portless : op ∈ portlessOpcodes) :
    i.portField = 0 := by
  obtain rfl : BitVec.ofNat 8 i.opcode = op := by rw [h, BitVec.ofNat_toNat, BitVec.setWidth_eq]
  cases i with
  | init | quit | portOpen => rfl
  | _ => simp [Instr.opcode, portlessOpcodes] at portless

theorem eq_addData_of_opcode (h : i.opcode = 0x30) : i = .addData i.portField := by
  cases i with
  | addData p => rfl
  | _ => simp [Instr.opcode] at h

/-- Every OP of the map is a command's, with the PORT that it allows. -/
theorem exists_command_of_mem_opcodeMap {op : BitVec 8} {port : Nat} (h : op ∈ opcodeMap)
    (zero : op ∈ portlessOpcodes → port = 0) : ∃ i : Instr, i.opcode = op.toNat ∧ i.portField = port := by
  simp only [opcodeMap, List.mem_cons, List.not_mem_nil, or_false] at h
  obtain rfl | rfl | rfl | rfl | rfl | rfl | rfl | rfl | rfl | rfl | rfl := h
  · exact ⟨.init, rfl, (zero (by decide)).symm⟩
  · exact ⟨.quit, rfl, (zero (by decide)).symm⟩
  · exact ⟨.portOpen, rfl, (zero (by decide)).symm⟩
  · exact ⟨.portClose port, rfl, rfl⟩
  · exact ⟨.portStart port, rfl, rfl⟩
  · exact ⟨.portStop port, rfl, rfl⟩
  · exact ⟨.setPortLevel port, rfl, rfl⟩
  · exact ⟨.getPortConfig port, rfl, rfl⟩
  · exact ⟨.getPortTimestamp port, rfl, rfl⟩
  · exact ⟨.getPortBlockTag port, rfl, rfl⟩
  · exact ⟨.addData port, rfl, rfl⟩

/-! ### The command that runs -/

theorem runCommand_of_command (h : decode s.regs.cmdl.word = .command i) : runCommand s = exec i s := by
  rw [runCommand, h]

theorem runCommand_of_illegal {why : IllegalWord} (h : decode s.regs.cmdl.word = .illegal why) :
    runCommand s = .next (finish .illegalCmd s) := by
  rw [runCommand, h]

/-- Settles O17: `execAddData` only finishes the command. -/
theorem addDataIsRefused : Obligations.AddDataIsRefused := fun _ p => execAddData_eq (p := p)

/-- A word that decodes to no command but ADD_DATA is refused (R91, R145). -/
theorem runCommand_refused (h : ∀ i, decode s.regs.cmdl.word = .command i → ∃ p, i = .addData p) :
    runCommand s = .next (finish .illegalCmd s) := by
  cases word : decode s.regs.cmdl.word with
  | command i =>
    obtain ⟨p, rfl⟩ := h i word
    rw [runCommand_of_command word]
    exact execAddData_eq (p := p)
  | illegal why => exact runCommand_of_illegal word

/-- The fields of a word put together from them (R90). -/
theorem fields_append (rsvd : BitVec 16) (port op : BitVec 8) :
    rsvdField (rsvd ++ port ++ op) = rsvd.toNat ∧ portBits (rsvd ++ port ++ op) = port.toNat ∧
    opField (rsvd ++ port ++ op) = op.toNat := by
  have word : (rsvd ++ port ++ op : BitVec 32).toNat = rsvd.toNat * 65536 + port.toNat * 256 + op.toNat := by
    rw [BitVec.toNat_append, BitVec.toNat_append, ← Nat.shiftLeft_add_eq_or_of_lt op.isLt,
      ← Nat.shiftLeft_add_eq_or_of_lt port.isLt, Nat.shiftLeft_eq, Nat.shiftLeft_eq]
    omega
  simp only [rsvdField, portBits, opField, word]
  omega

/-- Settles O2: the first four kinds of words have the fields of no command but ADD_DATA, any other a command's. -/
theorem decodeFollowsItsCases : Obligations.DecodeFollowsItsCases := by
  intro s rsvd port op word map portless illegal
  have fields (i : Instr) : decode s.regs.cmdl.word = .command i ↔
      rsvd.toNat = 0 ∧ port.toNat = i.portField ∧ op.toNat = i.opcode := by
    obtain ⟨hr, hp, ho⟩ := fields_append rsvd port op
    rw [word, decode_eq_command_iff, hr, hp, ho]
  have refused (h : ∀ i : Instr, rsvd.toNat = 0 → port.toNat = i.portField → op.toNat = i.opcode →
      ∃ p, i = .addData p) : illegal :=
    runCommand_refused fun i hi =>
      have ⟨hr, hp, ho⟩ := (fields i).1 hi
      h i hr hp ho
  refine ⟨fun reserved => refused fun i hr _ _ => ?_, fun unknown => refused fun i _ _ ho => ?_,
    fun addData => refused fun i _ _ ho => ?_, fun hop nonzero => refused fun i _ hp ho => ?_,
    fun hr hop _ zero => ?_⟩
  · exact absurd (BitVec.eq_of_toNat_eq hr) reserved
  · exact absurd (mem_opcodeMap_of_opcode ho.symm) unknown
  · exact ⟨_, eq_addData_of_opcode (ho.symm.trans (congrArg BitVec.toNat addData))⟩
  · have zero : port.toNat = 0 := hp.trans (portField_eq_zero_of_opcode ho.symm hop)
    exact absurd (BitVec.eq_of_toNat_eq zero) nonzero
  · obtain ⟨i, ho, hp⟩ := exists_command_of_mem_opcodeMap hop fun h => congrArg BitVec.toNat (zero h)
    exact ⟨i, ho, hp, runCommand_of_command ((fields i).2 ⟨congrArg BitVec.toNat hr, hp.symm, ho.symm⟩)⟩

theorem step_eq_runCommand (runs : CommandRuns s) : step s = runCommand (beginTurn s) := by
  have ready := commandReady_of_commandRuns runs
  obtain ⟨⟨turn, released⟩, -⟩ := runs
  rw [step, turn, takeTurn, amxStep, if_neg (by simp [released]),
    if_pos (show commandReady (beginTurn s) = true from ready)]

/-- Settles O7: the step runs the word, and an illegal word only finishes. -/
theorem illegalWordCompletes : Obligations.IllegalWordCompletes := by
  intro s why runs word
  rw [step_eq_runCommand runs]
  exact runCommand_of_illegal (s := beginTurn s) word

end Sys2Proof.Machine

/-! PROOFS. INIT, QUIT, the stop, and how commands and mix cycles exclude each other (40_lifecycle.md R110-R120,
43_cadence.md R174): O8, O9, O10, O25, O56.

`step_turn` says once whose turn a step is and what the turns of the other agents leave alone. -/

namespace Sys2Proof.Machine

variable {s t : State}

/-! ### INIT -/

theorem execInit_initialized (alive : s.life.initialized = true) :
    exec .init s = .next (finish .alreadyInit s) := if_pos alive

theorem execInit_failed (dead : s.life.initialized = false) (failed : sinkOpenFailed s = true) :
    exec .init s = .next (finish .ok (finalize (initialState s))) :=
  (if_neg (by simp [dead])).trans (if_pos failed)

theorem execInit_opened (dead : s.life.initialized = false) (opened : sinkOpenFailed s = false) :
    exec .init s = .next (finish .ok (initialState s).startRunning) :=
  (if_neg (by simp [dead])).trans (if_neg (by simp [opened]))

theorem not_sinkFails_iff (s : State) :
    ¬SinkFails s ↔ s.inputs.sinkOk = true ∧ (s.regs.cfgOut.getLsbD 1 = true → s.inputs.captureOk = true) := by
  simp [SinkFails]

/-- Settles O9: INIT's outcome with a sink that failed to open, and with the sinks open. -/
theorem initFollowsItsRule : Obligations.InitFollowsItsRule := by
  refine fun s => ⟨execInit_initialized, fun dead => ?_⟩
  rw [← not_sinkFails_iff]
  by_cases failed : SinkFails s
  · have sink := (sinkOpenFailed_iff s).2 failed
    have init := execInit_failed dead sink
    have life : (finish .ok (finalize (initialState s))).life =
        { Life.reset with
          initialized := true, finalized := true, sinkFail := true, startTimestamp := s.inputs.now } := by
      simp [finish, finalize, initialState, Life.reset, sink]
    have ports : (finalize (initialState s)).ports = List.replicate s.par.portCount Port.zero := by simp
    exact ⟨_, init, fun opened => absurd failed opened, fun _ => ⟨life, rfl⟩, ports, rfl, rfl, rfl, rfl, rfl,
      (exec_cases init).frame⟩
  · have sink := Bool.eq_false_iff.2 (mt (sinkOpenFailed_iff s).1 failed)
    have init := execInit_opened dead sink
    have life : (finish .ok (initialState s).startRunning).life =
        { Life.reset with
          initialized := true, running := true, sinkFail := false, startTimestamp := s.inputs.now } := by
      simp [finish, State.startRunning, initialState, sink]
    exact ⟨_, init, fun _ => ⟨life, rfl⟩, fun fails => absurd fails failed, rfl, rfl, rfl, rfl, rfl, rfl,
      (exec_cases init).frame⟩

/-! ### QUIT -/

theorem quitRequested_of_finalized (finalized : s.life.finalized = true) : quitRequested s = s.pendQuit :=
  (quitRequested_eq s).trans (if_pos finalized)

theorem quitRequested_of_alive (alive : s.life.finalized = false) :
    quitRequested s = (requestStop s).pendQuit :=
  (quitRequested_eq s).trans (if_neg (by simp [alive]))

/-- QUIT's own request does not change what it holds for. -/
@[simp] theorem quitMayComplete_quitRequested (s : State) :
    quitMayComplete (quitRequested s) = quitMayComplete s := by
  simp [quitMayComplete]

theorem execQuit_holds (initialized : s.life.initialized = true) (holds : quitMayComplete s = false) :
    exec .quit s = .next (quitRequested s) :=
  (if_pos initialized).trans (if_neg (by simp [holds]))

theorem execQuit_completes (initialized : s.life.initialized = true) (complete : quitMayComplete s = true) :
    exec .quit s = .next (finish .ok (endLifetime (quitRequested s))) :=
  (if_pos initialized).trans (if_pos (by simp [complete]))

/-- Settles O10: QUIT without a lifetime, with the block alive, with the sentinel not popped, and with all done. -/
theorem quitFollowsItsRule : Obligations.QuitFollowsItsRule := by
  refine fun s => ⟨fun dead => if_neg (by simp [dead]), fun initialized alive => ?_,
    fun initialized finalized unpopped => ?_, fun initialized finalized popped => ?_⟩
  · rw [execQuit_holds initialized (by simp [quitMayComplete, alive]), quitRequested_of_alive alive]
    rfl
  · rw [execQuit_holds initialized (by simp [quitMayComplete, unpopped]), quitRequested_of_finalized finalized]
    rfl
  · rw [execQuit_completes initialized (quitMayComplete_iff.2 ⟨finalized, popped⟩),
      quitRequested_of_finalized finalized]
    rfl

/-! ### AMX's turn -/

theorem step_of_amxMoves (moves : AmxMoves s) :
    step s = if commandReady s then runCommand (beginTurn s) else engineStep (beginTurn s) := by
  obtain ⟨turn, released⟩ := moves
  rw [step, turn]
  exact if_neg (by simp [released])

theorem step_of_ready (moves : AmxMoves s) (ready : commandReady s = true) : step s = runCommand (beginTurn s) :=
  (step_of_amxMoves moves).trans (if_pos ready)

theorem step_of_notReady (moves : AmxMoves s) (waits : commandReady s = false) :
    step s = engineStep (beginTurn s) :=
  (step_of_amxMoves moves).trans (if_neg (by simp [waits]))

theorem engineStep_of_idle (idle : s.eng.phase = .idle) : engineStep s = .next (idleStep s) := by
  rw [engineStep, idle]

theorem engineStep_of_hold (hold : s.eng.phase = .hold) : engineStep s = .next (holdStep s) := by
  rw [engineStep, hold]

theorem engineStep_of_notify (notify : s.eng.phase = .notify) : engineStep s = notifyStep s := by
  rw [engineStep, notify]

/-! ### The stop -/

/-- finalize() takes back a stop request, so it leaves the same state whether ENV_STOP or QUIT asked (R116, R118). -/
theorem finalize_requestStop (s : State) : finalize (requestStop s) = finalize s := rfl

theorem stopCheck_eq_finalize (h : stopCheck s = some t) : t = finalize s := by
  obtain ⟨-, -, rfl⟩ | ⟨-, -, rfl⟩ := stopCheck_cases h
  · exact finalize_requestStop s
  · rfl

theorem stopCheck_of_stop (running : s.life.running = true)
    (stop : s.life.stopReq = true ∨ s.inputs.envStop = true) : stopCheck s = some (finalize s) := by
  have acted : ((s.life.running && s.inputs.envStop) || s.life.stopReq) = true := by
    simpa [running] using stop.symm
  obtain ⟨t, ht⟩ : ∃ t, stopCheck s = some t := ⟨_, if_pos acted⟩
  rw [ht, stopCheck_eq_finalize ht]

/-- A stop is acted on at both check points (R115). -/
theorem engineStep_of_stop (phase : s.eng.phase = .idle ∨ s.eng.phase = .hold) (running : s.life.running = true)
    (stop : s.life.stopReq = true ∨ s.inputs.envStop = true) : engineStep s = .next (finalize s) := by
  have check := stopCheck_of_stop running stop
  obtain idle | hold := phase
  · rw [engineStep_of_idle idle, idleStep, if_pos running, check]
  · rw [engineStep_of_hold hold, holdStep, check]

theorem engineStep_of_notRunning (stopped : s.life.running = false) (idle : s.eng.phase = .idle) :
    engineStep s = .next s := by
  rw [engineStep_of_idle idle, idleStep, if_neg (by simp [stopped])]

/-- Settles O25: at a check point the engine's step is finalize(); a block that does not run takes no step. -/
theorem stopFinalizes : Obligations.StopFinalizes := by
  refine ⟨fun s => engineStep_of_notRunning, fun s moves waits phase running stop => ?_⟩
  have acted : step s = .next (finalize (beginTurn s)) :=
    (step_of_notReady moves waits).trans (engineStep_of_stop (s := beginTurn s) phase running stop)
  exact ⟨_, acted, finalize_port (beginTurn s), rfl, rfl, rfl, rfl, rfl, rfl, rfl, fun _ => rfl⟩

/-! ### Whose turn a step is -/

/-- A step is a hardware reset, AMX's latched command, a step of its cycle engine, or a turn that leaves the
lifecycle, the port table and the cycle engine alone, and of which only the consumer's pop takes the sentinel. -/
inductive StepTurn (s t : State) : Prop
  | outside (life : t.life = s.life) (ports : t.ports = s.ports) (eng : t.eng = s.eng)
      (sent : t.out.sent = s.out.sent ∨ (t.out.sent = false ∧ currentTurn s = .pop))
  | reset (turn : currentTurn s = .setReset true) (sent : t.out.sent = false)
  | command (moves : AmxMoves s) (ready : commandReady s = true) (run : runCommand (beginTurn s) = .next t)
  | engine (moves : AmxMoves s) (run : engineStep (beginTurn s) = .next t)

theorem step_turn (h : step s = .next t) : StepTurn s t := by
  unfold step at h
  rcases hturn : currentTurn s with _ | ⟨off, width, v⟩ | ⟨off, width⟩ | _ | ⟨addr, bytes⟩ | v | v | v | v | v | v <;>
    rw [hturn] at h
  case amx =>
    obtain ⟨-, rfl⟩ | ⟨released, ready, run⟩ | ⟨released, -, run⟩ := amxStep_cases h
    · exact .outside rfl rfl rfl (.inl rfl)
    · exact .command ⟨hturn, released⟩ ready run
    · exact .engine ⟨hturn, released⟩ run
  all_goals obtain rfl := next_inj h
  case hostWrite =>
    obtain ⟨r, o, eq⟩ := hostWrite_frame off width v (beginTurn s)
    rw [eq]
    exact .outside rfl rfl rfl (.inl rfl)
  case hostRead =>
    obtain ⟨r, o, eq⟩ := hostRead_frame off width (beginTurn s)
    rw [eq]
    exact .outside rfl rfl rfl (.inl rfl)
  case pop =>
    obtain ⟨j, rest, -, eq⟩ | ⟨-, -, eq⟩ | ⟨-, -, eq⟩ := consumerPop_cases (s := beginTurn s) rfl <;> rw [eq]
    · exact .outside rfl rfl rfl (.inl rfl)
    · exact .outside rfl rfl rfl (.inr ⟨rfl, hturn⟩)
    · exact .outside rfl rfl rfl (.inl rfl)
  case setReset =>
    cases v
    · exact .outside rfl rfl rfl (.inl rfl)
    · exact .reset hturn rfl
  all_goals exact .outside rfl rfl rfl (.inl rfl)

/-! ### A finalized lifetime -/

theorem LifeInv.initialized_of_finalized (h : LifeInv s) (finalized : s.life.finalized = true) :
    s.life.initialized = true := by
  by_contra dead
  obtain ⟨-, -, alive, -⟩ := h.dead (by simpa using dead)
  simp [finalized] at alive

theorem LifeInv.idle_of_finalized (h : LifeInv s) (finalized : s.life.finalized = true) :
    s.eng.phase = .idle := by
  by_contra active
  simpa [h.not_running_of_finalized finalized] using h.phase active

/-- Of all commands only INIT writes SENT (R110, R112). -/
theorem Executed.sent_of_initialized {i : Instr} (h : Executed s i t) (initialized : s.life.initialized = true) :
    t.out.sent = s.out.sent := by
  cases h with
  | turnedAway away =>
    obtain ⟨c, -, -, -, rfl⟩ := away
    rfl
  | initFailed dead | initRunning dead => simp [initialized] at dead
  | quitCompletes | quitHolds => exact quitRequested_sent s
  | opened | closed | started | stopped | level | answered => rfl

/-- In a finalized lifetime SENT stays, but for the consumer's pop and a hardware reset (R119). -/
theorem step_sent_of_finalized (h : Inv s) (finalized : s.life.finalized = true) (hs : step s = .next t) :
    t.out.sent = s.out.sent ∨
    (t.out.sent = false ∧ (currentTurn s = .pop ∨ currentTurn s = .setReset true)) := by
  obtain ⟨-, -, -, sent⟩ | ⟨turn, sent⟩ | ⟨-, -, run⟩ | ⟨-, run⟩ := step_turn hs
  · exact sent.imp_right fun ⟨taken, pop⟩ => ⟨taken, .inl pop⟩
  · exact .inr ⟨sent, .inr turn⟩
  · obtain ⟨i, -, run⟩ | ⟨-, -, rfl⟩ := runCommand_cases run
    · exact .inl ((exec_cases run).sent_of_initialized (h.life.initialized_of_finalized finalized))
    · exact .inl rfl
  · have still := engineStep_of_notRunning (s := beginTurn s) (h.life.not_running_of_finalized finalized)
      (h.life.idle_of_finalized finalized)
    rw [next_inj (still.symm.trans run)]
    exact .inl rfl

theorem step_finalized_stays (h : Inv s) (finalized : s.life.finalized = true) (hs : step s = .next t) :
    t.life.finalized = true ∨ t.life.initialized = false := by
  by_cases reset : currentTurn s = .setReset true
  · rw [step, reset] at hs
    rw [next_inj hs]
    exact .inr rfl
  · exact ((step_lifeMoves h hs reset).finalized_stays finalized).2

/-- A QUIT that holds completes once the sentinel is popped (R114, R119). -/
theorem step_of_heldQuit (h : Inv s) (moves : AmxMoves s) (pending : s.life.quitPending = true)
    (finalized : s.life.finalized = true) (popped : s.out.sent = false) :
    step s = .next (finish .ok (endLifetime (quitRequested (beginTurn s)))) := by
  obtain ⟨busy, initialized, -, word⟩ := h.life.quit pending
  have complete : quitMayComplete s = true := quitMayComplete_iff.2 ⟨finalized, popped⟩
  have ready : commandReady s = true := by simp [commandReady, busy, pending, complete]
  rw [step_of_ready moves ready, runCommand_of_command (s := beginTurn s) word,
    execQuit_completes (s := beginTurn s) initialized complete]

/-- Settles O56: SENT, FINALIZED and the held QUIT of a finalized lifetime. -/
theorem sentinelIsPushedOnce : Obligations.SentinelIsPushedOnce := by
  intro s t h finalized hs
  have sent := step_sent_of_finalized h finalized hs
  refine ⟨fun pushed => ?_, fun undone => ?_, fun gone pushed => ?_, fun moves pending popped => ?_⟩
  · obtain same | ⟨gone, -⟩ := sent
    · exact same ▸ pushed
    · simp [gone] at pushed
  · exact (step_finalized_stays h finalized hs).resolve_left (by simp [undone])
  · obtain same | ⟨-, turn⟩ := sent
    · simp [same, pushed] at gone
    · exact turn
  · rw [next_inj ((step_of_heldQuit h moves pending finalized popped).symm.trans hs)]
    exact ⟨rfl, rfl, rfl, rfl⟩

/-! ### A cycle under way -/

/-- The cycle goes on, and neither the port table nor the lifecycle has changed. -/
structure CycleGoesOn (s t : State) : Prop where
  phase : t.eng.phase ≠ .idle
  ports : t.ports = s.ports
  life : t.life = s.life

theorem mixStep_goesOn (mix : s.eng.phase = .mix) (h : mixStep s = .next t) : CycleGoesOn s t := by
  have active : s.eng.phase ≠ .idle := by simp [mix]
  obtain ⟨-, -, h⟩ | ⟨-, -, rfl⟩ | ⟨-, rfl⟩ := mixStep_cases h
  · obtain ⟨-, -, h⟩ | ⟨-, -, rfl⟩ | ⟨-, -, rfl⟩ | ⟨-, -, rfl⟩ := mixStarted_cases h
    · obtain ⟨-, rfl⟩ := mixRead_cases h
      exact ⟨active, rfl, rfl⟩
    all_goals exact ⟨active, rfl, rfl⟩
  · exact ⟨active, rfl, rfl⟩
  · exact ⟨nofun, rfl, rfl⟩

theorem convertStep_goesOn (s : State) : CycleGoesOn s (convertStep s) := by
  obtain ⟨-, -, eq⟩ | ⟨-, eq⟩ := convertStep_cases (s := s) rfl <;> rw [eq]
  · exact ⟨nofun, rfl, rfl⟩
  · exact ⟨nofun, rfl, rfl⟩

/-- Only a stop in HOLD cuts a cycle short (R115, R220). -/
theorem holdStep_goesOn (hold : s.eng.phase = .hold) :
    holdStep s = finalize s ∨ CycleGoesOn s (holdStep s) := by
  obtain stop | ⟨-, -, eq⟩ | ⟨-, -, eq⟩ := holdStep_cases (s := s) rfl
  · exact .inl (stopCheck_eq_finalize stop)
  · rw [eq]
    exact .inr ⟨by simp [hold], rfl, rfl⟩
  · rw [eq]
    exact .inr ⟨nofun, rfl, rfl⟩

theorem engineStep_goesOn (active : s.eng.phase ≠ .idle) (early : s.eng.phase ≠ .notify)
    (h : engineStep s = .next t) : (s.eng.phase = .hold ∧ t = finalize s) ∨ CycleGoesOn s t := by
  obtain ⟨idle, -⟩ | ⟨mix, h⟩ | ⟨-, rfl⟩ | ⟨hold, rfl⟩ | ⟨notify, -⟩ := engineStep_cases h
  · exact absurd idle active
  · exact .inr (mixStep_goesOn mix h)
  · exact .inr (convertStep_goesOn s)
  · exact (holdStep_goesOn hold).imp_left fun stop => ⟨hold, stop⟩
  · exact absurd notify early

/-- NOTIFY leaves the lifecycle alone, and a port's entry too or advances it (R240). -/
theorem notifyStep_port (h : notifyStep s = .next t) :
    t.life = s.life ∧ ∀ p, t.port p = s.port p ∨ t.port p = notifiedPort s (s.port p) := by
  obtain ⟨-, -, h⟩ | ⟨-, -, rfl⟩ | ⟨-, rfl⟩ := notifyStep_cases h
  · obtain ⟨-, rfl⟩ | ⟨np, -, -, rfl⟩ := notifyStarted_cases h
    · exact ⟨rfl, fun p => (port_of_set rfl p).imp_right fun ⟨served, port⟩ => served ▸ port⟩
    · exact ⟨rfl, fun _ => .inl rfl⟩
  all_goals exact ⟨rfl, fun _ => .inl rfl⟩

/-- Of the latched commands only QUIT runs within a cycle, in HOLD (R120, R174). -/
theorem Inv.quit_of_ready (h : Inv s) (active : s.eng.phase ≠ .idle) (ready : commandReady s = true) :
    s.eng.phase = .hold ∧ decode s.regs.cmdl.word = .command .quit := by
  obtain ⟨-, ⟨-, complete⟩ | ⟨-, idle | quit⟩⟩ := commandReady_cases ready
  · obtain ⟨finalized, -⟩ := quitMayComplete_iff.1 complete
    exact absurd (h.life.idle_of_finalized finalized) active
  · exact absurd idle active
  · exact quit

theorem execQuit_ports (h : exec .quit s = .next t) : t.ports = s.ports := by
  cases exec_cases h with
  | turnedAway away =>
    obtain ⟨c, -, -, -, rfl⟩ := away
    rfl
  | quitCompletes | quitHolds => exact quitRequested_ports s
  | answered other => exact absurd rfl other

/-- A step of the machine before NOTIFY: the cycle goes on, or a stop or QUIT comes in HOLD (R115, R174). -/
theorem step_goesOn (h : Inv s) (hs : step s = .next t) (noReset : currentTurn s ≠ .setReset true)
    (active : s.eng.phase ≠ .idle) (early : s.eng.phase ≠ .notify) :
    CycleGoesOn s t ∨ (s.eng.phase = .hold ∧ (t.eng.phase ≠ .idle → t.ports = s.ports)) := by
  obtain ⟨life, ports, eng, -⟩ | ⟨turn, -⟩ | ⟨-, ready, run⟩ | ⟨-, run⟩ := step_turn hs
  · exact .inl ⟨eng ▸ active, ports, life⟩
  · exact absurd turn noReset
  · obtain ⟨hold, word⟩ := h.quit_of_ready active ready
    rw [runCommand_of_command (s := beginTurn s) word] at run
    exact .inr ⟨hold, fun _ => execQuit_ports (s := beginTurn s) run⟩
  · obtain ⟨hold, rfl⟩ | ⟨phase, ports, life⟩ := engineStep_goesOn (s := beginTurn s) active early run
    · exact .inr ⟨hold, fun phase => absurd rfl phase⟩
    · exact .inl ⟨phase, ports, life⟩

/-- A step of the machine in NOTIFY (R240). -/
theorem step_notify (h : Inv s) (hs : step s = .next t) (noReset : currentTurn s ≠ .setReset true)
    (notify : s.eng.phase = .notify) :
    t.life = s.life ∧ ∀ p, t.port p = s.port p ∨ t.port p = notifiedPort s (s.port p) := by
  obtain ⟨life, ports, -, -⟩ | ⟨turn, -⟩ | ⟨-, ready, -⟩ | ⟨-, run⟩ := step_turn hs
  · exact ⟨life, fun p => .inl (port_congr s ports p)⟩
  · exact absurd turn noReset
  · obtain ⟨hold, -⟩ := h.quit_of_ready (by simp [notify]) ready
    simp [notify] at hold
  · rw [engineStep_of_notify (s := beginTurn s) notify] at run
    exact notifyStep_port (s := beginTurn s) run

/-- With a command latched there is no evaluation: IDLE's step is a stop or nothing (R174). -/
theorem idleStep_of_busy (busy : s.regs.busy = true) : idleStep s = finalize s ∨ idleStep s = s := by
  obtain ⟨-, eq⟩ | ⟨-, stop⟩ | ⟨-, -, -, eq⟩ | ⟨-, -, free, -⟩ := idleStep_cases (s := s) rfl
  · exact .inr eq
  · exact .inl (stopCheck_eq_finalize stop)
  · exact .inr eq
  · simp [busy] at free

/-- A command that is not QUIT in HOLD leaves a cycle under way to the engine (R174). -/
theorem step_within_cycle (moves : AmxMoves s) (free : s.life.quitPending = false) (active : s.eng.phase ≠ .idle)
    (other : s.eng.phase = .hold → decode s.regs.cmdl.word ≠ .command .quit) :
    step s = engineStep (beginTurn s) :=
  step_of_notReady moves <| by
    simp only [commandReady, free, latchedQuit]
    simpa [active] using fun _ => other

/-- While QUIT holds in IDLE the engine's step is a stop or nothing (R114, R174). -/
theorem step_of_quitHolding (moves : AmxMoves s) (busy : s.regs.busy = true)
    (pending : s.life.quitPending = true) (idle : s.eng.phase = .idle) (holds : quitMayComplete s = false) :
    step s = .next (finalize (beginTurn s)) ∨ step s = .next (beginTurn s) := by
  have waits : commandReady s = false := by simp [commandReady, pending, holds]
  rw [step_of_notReady moves waits, engineStep_of_idle (s := beginTurn s) idle]
  exact (idleStep_of_busy (s := beginTurn s) busy).imp (congrArg _) (congrArg _)

/-- Settles O8: the first part is AMX's turn with a command latched; `engineStep_goesOn` is the engine's step within a
cycle, `step_goesOn` and `step_notify` are the machine's. -/
theorem commandsAndCyclesExclude : Obligations.CommandsAndCyclesExclude := by
  refine ⟨fun s moves busy => ⟨fun free idle => step_eq_runCommand ⟨moves, busy, free, idle⟩,
      fun free hold word => ?_, fun free active other => ?_, fun pending idle holds => ?_⟩,
    fun s t active early hs => ?_, fun s t h hs noReset active => ⟨fun early => ?_, fun notify => ?_⟩⟩
  · exact step_of_ready moves (by simp [commandReady, latchedQuit, busy, free, hold, word])
  · have engine := step_within_cycle moves free active other
    exact ⟨engine, fun t hs => engineStep_regs (s := beginTurn s) (engine.symm.trans hs)⟩
  · obtain stopped | still := step_of_quitHolding moves busy pending idle holds
    · exact ⟨_, stopped, rfl, rfl, rfl⟩
    · exact ⟨_, still, rfl, idle, rfl⟩
  · obtain ⟨hold, rfl⟩ | ⟨phase, ports, life⟩ := engineStep_goesOn active early hs
    · exact ⟨fun other => absurd hold other, fun phase => absurd rfl phase⟩
    · exact ⟨fun _ => phase, fun _ => ⟨ports, life⟩⟩
  · obtain ⟨phase, ports, life⟩ | ⟨hold, ports⟩ := step_goesOn h hs noReset active early
    · exact ⟨fun _ => ⟨phase, life⟩, fun _ => ports⟩
    · exact ⟨fun other => absurd hold other, ports⟩
  · obtain ⟨life, port⟩ := step_notify h hs noReset notify
    exact ⟨life, fun p => (port p).elim (fun same => by rw [same]) fun served => by rw [served]; rfl⟩

end Sys2Proof.Machine

/-! PROOFS. The port control commands (41_port_control.md R130-R139): O11, O12, O13, O14, O15, O16.

Each check of a command has one equation for each way it can go; a command that passes its checks replaces one entry of
the port table. -/

namespace Sys2Proof.Machine

variable {s t : State} {p : Nat}

/-! ### The shared checks -/

theorem whenInit_of_dead {body : Result} (dead : s.life.initialized = false) :
    whenInit s body = .next (finish .notInit s) := if_neg (by simp [dead])

theorem whenInit_of_initialized {body : Result} (initialized : s.life.initialized = true) :
    whenInit s body = body := if_pos initialized

theorem withPort_of_beyond {body : Port → Result} (initialized : s.life.initialized = true)
    (beyond : s.par.portCount ≤ p) : withPort p s body = .next (finish .param s) :=
  (whenInit_of_initialized initialized).trans (if_neg beyond.not_gt)

theorem withPort_of_lt {body : Port → Result} (initialized : s.life.initialized = true)
    (hp : p < s.par.portCount) : withPort p s body = body (s.port p) :=
  (whenInit_of_initialized initialized).trans (if_pos hp)

theorem openPort_of_closed {body : Port → Result} (initialized : s.life.initialized = true)
    (hp : p < s.par.portCount) (closed : (s.port p).opened = false) :
    (withPort p s fun e => whenOpened e s (body e)) = .next (finish .portNotOpen s) :=
  (withPort_of_lt initialized hp).trans (if_neg (by simp [closed]))

theorem openPort_of_opened {body : Port → Result} (initialized : s.life.initialized = true)
    (hp : p < s.par.portCount) (opened : (s.port p).opened = true) :
    (withPort p s fun e => whenOpened e s (body e)) = body (s.port p) :=
  (withPort_of_lt initialized hp).trans (if_pos opened)

theorem startedPort_of_stopped {body : Port → Result} (initialized : s.life.initialized = true)
    (hp : p < s.par.portCount) (opened : (s.port p).opened = true) (stopped : (s.port p).started = false) :
    (withPort p s fun e => whenOpened e s (whenStarted e s (body e))) = .next (finish .portNotRun s) :=
  (openPort_of_opened initialized hp opened).trans (if_neg (by simp [stopped]))

theorem startedPort_of_started {body : Port → Result} (initialized : s.life.initialized = true)
    (hp : p < s.par.portCount) (opened : (s.port p).opened = true) (started : (s.port p).started = true) :
    (withPort p s fun e => whenOpened e s (whenStarted e s (body e))) = body (s.port p) :=
  (openPort_of_opened initialized hp opened).trans (if_pos started)

/-! ### One entry of the port table replaced -/

/-- A port beyond the table reads as `Port.zero`, so an open port is in it. -/
theorem lt_length_of_opened (opened : (s.port p).opened = true) : p < s.ports.length := by
  by_contra beyond
  simp [State.port, Nat.le_of_not_lt beyond] at opened

/-- What the answer of START, STOP and SET_PORT_LEVEL comes to: one entry is replaced (R135, R137, R139). -/
theorem entryReplaced_effect {r : Result} {e : Port} (h : r = .next (finish .ok (s.setPort p e)))
    (opened : (s.port p).opened = true) :
    ∃ t, r = .next t ∧ t.port p = e ∧ (∀ j, j ≠ p → t.port j = s.port j) ∧ t.life = s.life ∧
      t.regs = { s.regs with status := .ok, busy := false } ∧ t.eng = s.eng ∧ t.out = s.out ∧ CommandFrame s t :=
  ⟨_, h, setPort_port_same s p e (lt_length_of_opened opened), fun j other => setPort_port_other s p j e other.symm,
    rfl, rfl, rfl, rfl, .of_update ..⟩

/-! ### PORT_CLOSE, PORT_START, PORT_STOP and SET_PORT_LEVEL -/

/-- PORT_CLOSE keeps the number of entries of the port table (R35). -/
theorem execPortClose_length (h : execPortClose p s = .next t) : t.ports.length = s.ports.length := by
  obtain ⟨c, -, -, -, rfl⟩ | ⟨-, -, -, rfl⟩ := execPortClose_cases h
  · rfl
  · simp

/-- Settles O13: the checks of a command that needs its port open, and the entry closed. -/
theorem portCloseFollowsItsRule : Obligations.PortCloseFollowsItsRule := by
  intro s p
  simp only [exec]
  refine ⟨whenInit_of_dead, withPort_of_beyond, openPort_of_closed, fun initialized hp opened => ?_⟩
  exact ⟨_, openPort_of_opened initialized hp opened, setPort_port_same s p _ (lt_length_of_opened opened),
    fun j other => setPort_port_other s p j _ other.symm, rfl, rfl, rfl, rfl, .of_update ..⟩

theorem execPortStart_of_started (initialized : s.life.initialized = true) (hp : p < s.par.portCount)
    (opened : (s.port p).opened = true) (started : (s.port p).started = true) :
    execPortStart p s = .next (finish .portAlreadyRun s) :=
  (openPort_of_opened initialized hp opened).trans (if_pos started)

theorem execPortStart_of_stopped (initialized : s.life.initialized = true) (hp : p < s.par.portCount)
    (opened : (s.port p).opened = true) (stopped : (s.port p).started = false) :
    execPortStart p s = .next (finish .ok (s.setPort p ((s.port p).withStarted true))) :=
  (openPort_of_opened initialized hp opened).trans (if_neg (by simp [stopped]))

/-- Settles O14: the checks of a command that needs its port open, and the entry started. -/
theorem portStartFollowsItsRule : Obligations.PortStartFollowsItsRule := by
  intro s p
  simp only [exec]
  exact ⟨whenInit_of_dead, withPort_of_beyond, openPort_of_closed, execPortStart_of_started,
    fun initialized hp opened stopped =>
      entryReplaced_effect (execPortStart_of_stopped initialized hp opened stopped) opened⟩

/-- Settles O15: the checks of a command that needs its port Started, and the entry stopped. -/
theorem portStopFollowsItsRule : Obligations.PortStopFollowsItsRule := by
  intro s p
  simp only [exec]
  exact ⟨whenInit_of_dead, withPort_of_beyond, openPort_of_closed, startedPort_of_stopped,
    fun initialized hp opened started =>
      entryReplaced_effect (startedPort_of_started initialized hp opened started) opened⟩

/-- Settles O16: the checks of a command that needs its port Started, and the entry with the latched gain. -/
theorem setPortLevelFollowsItsRule : Obligations.SetPortLevelFollowsItsRule := by
  intro s p
  simp only [exec]
  exact ⟨whenInit_of_dead, withPort_of_beyond, openPort_of_closed, startedPort_of_stopped,
    fun initialized hp opened started =>
      entryReplaced_effect (startedPort_of_started initialized hp opened started) opened⟩

/-! ### PORT_OPEN -/

theorem openOperandsOk_iff {ch nb : Word} :
    openOperandsOk ch nb = true ↔ (ch = 2 ∨ ch = 6 ∨ ch = 8) ∧ nb ≠ 0 ∧ nb.toNat ≤ 16 := by
  have nonzero : 1 ≤ nb.toNat ↔ nb ≠ 0 := by bv_omega
  simp [openOperandsOk, Config.maxBlocks, nonzero, or_assoc, and_assoc]

theorem firstClosed_eq_none : firstClosed s = none ↔ ∀ i < s.par.portCount, (s.port i).opened = true := by
  simp [firstClosed]

/-- The gain for the init-level mask that R132 gives. -/
theorem openedPort_gain (mask : s.par.initlevelMask = 0x00001000#32) (i : Nat) :
    (openedPort s i).gain = if (arg2 s).getLsbD 12 then arg3 s else 0x3F800000#32 := by
  have bit : arg2 s &&& 0x00001000#32 = if (arg2 s).getLsbD 12 then 0x00001000#32 else 0 :=
    BitVec.and_twoPow (arg2 s) 12
  simp only [openedPort, mask, bit]
  cases (arg2 s).getLsbD 12 <;> rfl

theorem execPortOpen_of_badOperands (initialized : s.life.initialized = true)
    (bad : openOperandsOk (arg0 s) (arg1 s) = false) : exec .portOpen s = .next (finish .param s) :=
  (whenInit_of_initialized initialized).trans (if_neg (by simp [bad]))

theorem execPortOpen_of_full (initialized : s.life.initialized = true)
    (operands : openOperandsOk (arg0 s) (arg1 s) = true) (full : firstClosed s = none) :
    exec .portOpen s = .next (finish .portFull s) :=
  (whenInit_of_initialized initialized).trans <| (if_pos operands).trans (by rw [full])

theorem execPortOpen_of_firstClosed {i : Nat} (initialized : s.life.initialized = true)
    (operands : openOperandsOk (arg0 s) (arg1 s) = true) (first : firstClosed s = some i) :
    exec .portOpen s = .next (finish .ok
      (((s.setPort i (openedPort s i)).setPortsInUse (s.life.portsInUse + 1)).setRes0 (BitVec.ofNat 32 i))) :=
  (whenInit_of_initialized initialized).trans <| (if_pos operands).trans (by rw [first])

/-- Settles O11: PORT_OPEN's checks, and the entry it writes at the lowest Closed port. -/
theorem portOpenFollowsItsRule : Obligations.PortOpenFollowsItsRule := by
  intro s size ch nb operandsOk ends
  have operands : openOperandsOk (arg0 s) (arg1 s) = true ↔ operandsOk := openOperandsOk_iff
  refine ⟨whenInit_of_dead,
    fun initialized bad => execPortOpen_of_badOperands initialized (Bool.eq_false_iff.2 (mt operands.1 bad)),
    fun initialized good full => execPortOpen_of_full initialized (operands.2 good) (firstClosed_eq_none.2 full),
    fun i hi initialized good closed lower => ?_⟩
  have opens :=
    execPortOpen_of_firstClosed initialized (operands.2 good) (firstClosed_eq_some.2 ⟨hi, closed, lower⟩)
  exact ⟨_, _, opens, (openedPort_gain · i), setPort_port_same s i (openedPort s i) (size ▸ hi),
    fun j other => setPort_port_other s i j _ other.symm, rfl, rfl, rfl, rfl, .of_update ..⟩

/-- Settles O12: PORT_CLOSE (O13) leaves `k` the lowest Closed port, which PORT_OPEN (O11) then opens. -/
theorem closedPortIsReused : Obligations.ClosedPortIsReused := by
  intro s k small size initialized hk opened operands
  obtain ⟨-, -, -, closing⟩ := portCloseFollowsItsRule s k
  obtain ⟨t, closes, closed, others, life, -, -, -, frame⟩ := closing initialized hk (opened k le_rfl)
  have keptSize : t.ports.length = t.par.portCount := by rw [execPortClose_length closes, size, frame.par]
  have lower (j : Nat) (hj : j < k) : (t.port j).opened = true := others j hj.ne ▸ opened j hj.le
  obtain ⟨-, -, -, opening⟩ := portOpenFollowsItsRule t keptSize
  obtain ⟨u, _, opens, -, port, -, life', regs, -⟩ :=
    opening k (frame.par ▸ hk) (life ▸ initialized) (openOperandsOk_iff.1 (frame.cmdl ▸ operands)) (closed ▸ rfl) lower
  have index : u.regs.res.r0.toNat = k := by
    simp only [regs, BitVec.toNat_ofNat]
    omega
  exact ⟨t, u, closes, opens, regs ▸ rfl, index, port ▸ rfl, by simp [life', life]⟩

end Sys2Proof.Machine

/-! PROOFS. The ring-buffer addresses and the two commands that report them (42_ring_address.md R150-R161): O18, O20,
O21, O44.

GET_PORT_BLOCK_TAG answers the natural number `tag - tag % nb + …` cut to 64 bits; the closed form and its minimality are
then facts of natural numbers. -/

namespace Sys2Proof.Machine

variable {s : State} {p : Nat}

/-! ### The two words of a 64-bit value -/

theorem join64_eq_append (hi lo : Word) : join64 hi lo = hi ++ lo := by
  refine BitVec.eq_of_getLsbD_eq fun i inWord => ?_
  rw [BitVec.getLsbD_append]
  split
  · simp [join64, *]
  · have high : lo.getLsbD i = false := BitVec.getLsbD_of_ge lo i (Nat.le_of_not_lt ‹_›)
    simp [join64, *]

theorem hi32_append_lo32 (v : DWord) : hi32 v ++ lo32 v = v := by
  refine BitVec.eq_of_getElem_eq fun i hi => ?_
  rw [BitVec.getElem_append]
  split
  · simp [lo32, BitVec.getLsbD_eq_getElem hi]
  · simp [hi32, BitVec.getLsbD_eq_getElem hi, Nat.add_sub_cancel' (Nat.le_of_not_lt ‹_›)]

theorem arg64_eq_append (s : State) : arg64 s = s.regs.cmdl.arg.a1 ++ s.regs.cmdl.arg.a0 := join64_eq_append _ _

/-! ### The position and the tag advance -/

theorem nextPosition_eq (e : Port) : nextPosition e = (e.tag.toNat + 1) % e.blockCount.toNat :=
  Nat.mod_add_mod ..

theorem position_notifiedPort (s : State) (e : Port) :
    position (notifiedPort s e) = (e.tag.toNat + 1) % 2 ^ 64 % e.blockCount.toNat := by
  simp [position, notifiedPort, BitVec.toNat_add]

/-- Settles O44: the tag advance is exact below the wrap; at the wrap the position becomes 0 and the next position is
`2 ^ 64 % blockCount`. -/
theorem positionFollowsTheTag : Obligations.PositionFollowsTheTag := by
  intro s e _
  rw [position_notifiedPort, nextPosition_eq]
  by_cases below : e.tag.toNat + 1 < 2 ^ 64
  · rw [Nat.mod_eq_of_lt below]
    exact iff_of_true rfl (.inl below)
  · have wraps : e.tag.toNat + 1 = 2 ^ 64 := by omega
    rw [wraps, Nat.mod_self, Nat.zero_mod, Nat.dvd_iff_mod_eq_zero]
    omega

/-! ### GET_PORT_CONFIG -/

theorem regionSize_eq (e : Port) :
    regionSize e = e.blockCount.setWidth 32 * e.channels.setWidth 32 * 1024#32 := by
  simp [regionSize, Config.frames, BitVec.ofNat_mul, mul_assoc]

theorem execGetPortConfig_of_lt (initialized : s.life.initialized = true) (hp : p < s.par.portCount) :
    execGetPortConfig p s = .next (finish .ok (s.setRes (configResults s p (s.port p)))) :=
  withPort_of_lt initialized hp

/-- Settles O18: the checks of a command with a port, and `configResults` of a Closed and of an open port. -/
theorem getPortConfigFollowsItsRule : Obligations.GetPortConfigFollowsItsRule := by
  intro s p
  simp only [exec]
  refine ⟨whenInit_of_dead, withPort_of_beyond, fun initialized hp closed => ?_, fun initialized hp opened => ?_⟩
  · rw [execGetPortConfig_of_lt initialized hp, configResults, if_neg (by simp [closed]), regionAddress, indexAddress]
    rfl
  · rw [execGetPortConfig_of_lt initialized hp, configResults, if_pos opened, regionSize_eq]
    rfl

/-! ### GET_PORT_BLOCK_TAG -/

/-- R158's expression for the next tag of block `b`, over the natural numbers. -/
def roundTag (tag nb b : Nat) : Nat := tag - tag % nb + (if b < tag % nb then nb + b else b)

theorem nextBlockTag_eq (e : Port) (b : DWord) :
    nextBlockTag e b = BitVec.ofNat 64 (roundTag e.tag.toNat e.blockCount.toNat b.toNat) := by
  have le : position e ≤ e.tag.toNat := Nat.mod_le ..
  have base : e.tag - BitVec.ofNat 64 (position e) = BitVec.ofNat 64 (e.tag.toNat - position e) := by
    rw [← BitVec.ofNat_sub_ofNat_of_le _ _ (le.trans_lt e.tag.isLt) le, BitVec.ofNat_toNat, BitVec.setWidth_eq]
  rw [nextBlockTag, base, roundTag, ← position]
  split <;> simp [BitVec.ofNat_add, BitVec.add_assoc]

theorem execGetPortBlockTag_of_beyond (initialized : s.life.initialized = true) (hp : p < s.par.portCount)
    (opened : (s.port p).opened = true) (beyond : (s.port p).blockCount.toNat ≤ (arg64 s).toNat) :
    execGetPortBlockTag p s = .next (finish .param s) :=
  (openPort_of_opened initialized hp opened).trans (if_pos (by bv_omega))

theorem execGetPortBlockTag_of_lt (initialized : s.life.initialized = true) (hp : p < s.par.portCount)
    (opened : (s.port p).opened = true) (block : (arg64 s).toNat < (s.port p).blockCount.toNat) :
    execGetPortBlockTag p s = .next (finish .ok (s.setRes64 (nextBlockTag (s.port p) (arg64 s)))) :=
  (openPort_of_opened initialized hp opened).trans (if_neg (by bv_omega))

/-- Settles O20: the checks of a command that needs its port open, then the check of the block. -/
theorem getPortBlockTagFollowsItsRule : Obligations.GetPortBlockTagFollowsItsRule := by
  intro s p
  simp only [exec, ← arg64_eq_append]
  refine ⟨whenInit_of_dead, withPort_of_beyond, openPort_of_closed, execGetPortBlockTag_of_beyond,
    fun initialized hp opened block => ?_⟩
  exact ⟨_, _, execGetPortBlockTag_of_lt initialized hp opened block,
    (hi32_append_lo32 _).trans (nextBlockTag_eq ..)⟩

/-! ### The next occurrence of a block -/

section Occurrence
variable {tag nb b u : Nat}

/-- The distance between two numbers, modulo `nb`, from their remainders alone. -/
theorem add_mod_sub_mod (nb k tag : Nat) (hnb : 0 < nb) : ((tag + k) % nb + nb - tag % nb) % nb = k % nb := by
  have ht := Nat.mod_lt tag hnb
  have hk := Nat.mod_lt k hnb
  rw [Nat.add_mod_eq_ite]
  split
  · rw [show tag % nb + k % nb - nb + nb - tag % nb = k % nb by omega, Nat.mod_mod]
  · rw [show tag % nb + k % nb + nb - tag % nb = k % nb + nb by omega, Nat.add_mod_right, Nat.mod_mod]

theorem le_roundTag (hb : b < nb) : tag ≤ roundTag tag nb b := by
  have pos_lt := Nat.mod_lt tag (Nat.zero_lt_of_lt hb)
  unfold roundTag
  split <;> omega

theorem roundTag_lt (hb : b < nb) : roundTag tag nb b < tag + nb := by
  have pos_le := Nat.mod_le tag nb
  unfold roundTag
  split <;> omega

theorem roundTag_mod (hb : b < nb) : roundTag tag nb b % nb = b := by
  have aligned : (tag - tag % nb) % nb = 0 := Nat.sub_mod_eq_zero_of_mod_eq (Nat.mod_mod tag nb).symm
  rw [roundTag, Nat.add_mod, aligned]
  split <;> simp [Nat.mod_eq_of_lt hb]

/-- R159's closed form: block `b` comes within one round of the current tag. -/
theorem roundTag_eq (hb : b < nb) : roundTag tag nb b = tag + (b + nb - tag % nb) % nb := by
  obtain ⟨k, within⟩ := Nat.exists_eq_add_of_le (le_roundTag (tag := tag) hb)
  have hk : k < nb := Nat.lt_of_add_lt_add_left (within ▸ roundTag_lt hb)
  have distance := add_mod_sub_mod nb k tag (Nat.zero_lt_of_lt hb)
  rw [← within, roundTag_mod hb, Nat.mod_eq_of_lt hk] at distance
  rw [distance, within]

theorem roundTag_le (hb : b < nb) (hu : tag ≤ u) (block : u % nb = b) : roundTag tag nb b ≤ u := by
  obtain ⟨k, rfl⟩ := Nat.exists_eq_add_of_le hu
  rw [roundTag_eq hb, ← block, add_mod_sub_mod nb k tag (Nat.zero_lt_of_lt hb)]
  exact Nat.add_le_add_left (Nat.mod_le k nb) tag

end Occurrence

/-- Settles O21: O20's result does not reach 2^64, and `roundTag` is the next occurrence. -/
theorem blockTagIsTheNextOccurrence : Obligations.BlockTagIsTheNextOccurrence := by
  intro s p b nb tag initialized hp opened block fits
  obtain ⟨-, -, -, -, answers⟩ := getPortBlockTagFollowsItsRule s p
  obtain ⟨r0, r1, answer, value⟩ := answers initialized hp opened block
  have exact64 : (r1 ++ r0 : BitVec 64).toNat = roundTag tag nb b := by
    rw [value]
    exact Nat.mod_eq_of_lt ((roundTag_lt block).trans_le fits)
  refine ⟨_, answer, rfl, ?_⟩
  rw [exact64]
  exact ⟨roundTag_eq block, le_roundTag block, roundTag_mod block, fun u => roundTag_le block⟩

end Sys2Proof.Machine

/-! PROOFS. The cadence scheduler and GET_PORT_TIMESTAMP (43_cadence.md R170-R180): O19, O24, O58.

R180's expression is read over the integers and cut to 64 bits once.  For the counter and the start timestamp, what the
cycle engine and a command do to each is said once; `step_turn` says which of them a step is. -/

namespace Sys2Proof.Machine

variable {s t : State}

/-! ### GET_PORT_TIMESTAMP -/

/-- R180's expression for the time of tag `tag`, over the integers. -/
def integerTimestamp (s : State) (e : Port) (tag : DWord) : Int :=
  s.life.startTimestamp.toNat +
    (e.lastServicedCounter.toNat + ((tag.toNat : Int) - e.tag.toNat)) * s.par.cycleTicks

theorem tagTimestamp_eq_ofInt (s : State) (e : Port) (tag : DWord) :
    tagTimestamp s e tag = BitVec.ofInt 64 (integerTimestamp s e tag) := by
  simp only [tagTimestamp, integerTimestamp, BitVec.sub_eq_add_neg, Int.sub_eq_add_neg, BitVec.ofInt_add,
    BitVec.ofInt_mul, BitVec.ofInt_neg, BitVec.ofInt_natCast, BitVec.ofNat_toNat, BitVec.setWidth_eq]

theorem toNat_tagTimestamp (s : State) (e : Port) (tag : DWord) :
    ((tagTimestamp s e tag).toNat : Int) = integerTimestamp s e tag % 2 ^ 64 := by
  rw [tagTimestamp_eq_ofInt, BitVec.toNat_ofInt]
  exact Int.toNat_of_nonneg (Int.emod_nonneg _ (by decide))

theorem execGetPortTimestamp_of_started {p : Nat} (initialized : s.life.initialized = true) (hp : p < s.par.portCount)
    (opened : (s.port p).opened = true) (started : (s.port p).started = true) :
    execGetPortTimestamp p s = .next (finish .ok (s.setRes64 (tagTimestamp s (s.port p) (arg64 s)))) :=
  startedPort_of_started initialized hp opened started

/-- Settles O19: the checks of a command that needs its port Started, and the two words of `integerTimestamp`. -/
theorem getPortTimestampFollowsItsRule : Obligations.GetPortTimestampFollowsItsRule := by
  intro s p
  simp only [exec, ← arg64_eq_append]
  refine ⟨whenInit_of_dead, withPort_of_beyond, openPort_of_closed, startedPort_of_stopped,
    fun initialized hp opened started => ?_⟩
  refine ⟨_, _, execGetPortTimestamp_of_started initialized hp opened started, ?_⟩
  rw [hi32_append_lo32]
  exact toNat_tagTimestamp ..

/-! ### An evaluation -/

theorem cycleDue_iff :
    cycleDue s = true ↔ s.life.cycleCounter.toNat * s.par.cycleTicks < (elapsed s).toNat := decide_eq_true_iff

theorem evaluate_of_notDue (early : (elapsed s).toNat ≤ s.life.cycleCounter.toNat * s.par.cycleTicks) :
    evaluate s = s := if_neg fun due => early.not_gt (cycleDue_iff.1 due)

theorem evaluate_of_due_paused (due : s.life.cycleCounter.toNat * s.par.cycleTicks < (elapsed s).toNat)
    (paused : s.inputs.pause = true) : evaluate s = countCycle s :=
  (if_pos (cycleDue_iff.2 due)).trans (if_pos paused)

theorem evaluate_of_due_unpaused (due : s.life.cycleCounter.toNat * s.par.cycleTicks < (elapsed s).toNat)
    (unpaused : s.inputs.pause = false) : evaluate s = startMix (countCycle s) :=
  (if_pos (cycleDue_iff.2 due)).trans (if_neg (by simp [unpaused]))

theorem stopCheck_of_noStop (request : s.life.stopReq = false) (env : s.inputs.envStop = false) :
    stopCheck s = none := if_neg (by simp [request, env])

/-- IDLE's step of a block that runs, with no command latched and no stop, is the evaluation (R115, R170). -/
theorem engineStep_of_evaluation (idle : s.eng.phase = .idle) (running : s.life.running = true)
    (noStop : stopCheck s = none) (free : s.regs.busy = false) : engineStep s = .next (evaluate s) := by
  rw [engineStep_of_idle idle, idleStep, if_pos running, noStop]
  exact congrArg _ (if_neg (by simp [free]))

theorem step_of_evaluation (moves : AmxMoves s) (free : s.regs.busy = false) (running : s.life.running = true)
    (idle : s.eng.phase = .idle) (request : s.life.stopReq = false) (env : s.inputs.envStop = false) :
    step s = .next (evaluate (beginTurn s)) :=
  (step_of_notReady moves (by simp [commandReady, free])).trans <|
    engineStep_of_evaluation (s := beginTurn s) idle running (stopCheck_of_noStop request env) free

/-- Settles O24: the step is `evaluate`, which has one equation for each of the three cases. -/
theorem evaluationFollowsItsRule : Obligations.EvaluationFollowsItsRule := by
  intro s moves free running idle request env
  have evaluates := step_of_evaluation moves free running idle request env
  refine ⟨fun early => ?_, fun due paused => ?_, fun due unpaused => ?_⟩
  · rw [evaluates, evaluate_of_notDue (s := beginTurn s) early]
    rfl
  · rw [evaluates, evaluate_of_due_paused (s := beginTurn s) due paused]
    rfl
  · rw [evaluates, evaluate_of_due_unpaused (s := beginTurn s) due unpaused]
    rfl

/-! ### The cycle counter and the start timestamp -/

/-- The cycle counter and the start timestamp stay. -/
structure CadenceStays (s t : State) : Prop where
  counter : t.life.cycleCounter = s.life.cycleCounter
  start : t.life.startTimestamp = s.life.startTimestamp

theorem CadenceStays.of_life (h : t.life = s.life) : CadenceStays s t := ⟨by rw [h], by rw [h]⟩

/-- A due cycle is counted in IDLE, with the block running and no command latched (R170). -/
structure CycleCounted (s t : State) : Prop where
  idle : s.eng.phase = .idle
  running : s.life.running = true
  free : s.regs.busy = false
  due : cycleDue s = true
  life : t.life = (countCycle s).life

theorem idleStep_cadence (idle : s.eng.phase = .idle) :
    CadenceStays s (idleStep s) ∨ CycleCounted s (idleStep s) := by
  obtain ⟨-, eq⟩ | ⟨-, stop⟩ | ⟨-, -, -, eq⟩ | ⟨running, -, free, eq⟩ := idleStep_cases (s := s) rfl
  · exact .inl (.of_life (by rw [eq]))
  · exact .inl (stopCheck_eq_finalize stop ▸ ⟨rfl, rfl⟩)
  · exact .inl (.of_life (by rw [eq]))
  · rw [eq]
    obtain ⟨-, eq⟩ | ⟨due, -, eq⟩ | ⟨due, -, eq⟩ := evaluate_cases (s := s) rfl <;> rw [eq]
    · exact .inl ⟨rfl, rfl⟩
    · exact .inr ⟨idle, running, free, due, rfl⟩
    · exact .inr ⟨idle, running, free, due, rfl⟩

theorem engineStep_cadence (h : engineStep s = .next t) : CadenceStays s t ∨ CycleCounted s t := by
  by_cases idle : s.eng.phase = .idle
  · rw [engineStep_of_idle idle] at h
    exact next_inj h ▸ idleStep_cadence idle
  · by_cases notify : s.eng.phase = .notify
    · obtain ⟨life, -⟩ := notifyStep_port ((engineStep_of_notify notify).symm.trans h)
      exact .inl (.of_life life)
    · obtain ⟨-, rfl⟩ | ⟨-, -, life⟩ := engineStep_goesOn idle notify h
      · exact .inl ⟨rfl, rfl⟩
      · exact .inl (.of_life life)

theorem quitRequested_cadence (s : State) : CadenceStays s (quitRequested s) := by
  rw [quitRequested_eq]
  split <;> exact ⟨rfl, rfl⟩

/-- INIT restarts the cadence (R110); every other command leaves it (R177, R178). -/
theorem Executed.cadence {i : Instr} (h : Executed s i t) :
    CadenceStays s t ∨
    (i = .init ∧ t.life.cycleCounter = 0 ∧ t.life.startTimestamp = s.inputs.now) := by
  cases h with
  | turnedAway away =>
    obtain ⟨c, -, -, -, rfl⟩ := away
    exact .inl ⟨rfl, rfl⟩
  | initFailed | initRunning => exact .inr ⟨rfl, rfl, rfl⟩
  | quitCompletes | quitHolds =>
    obtain ⟨counter, start⟩ := quitRequested_cadence s
    exact .inl ⟨counter, start⟩
  | opened | closed | started | stopped | level | answered => exact .inl ⟨rfl, rfl⟩

theorem runCommand_cadence (h : runCommand s = .next t) :
    CadenceStays s t ∨
    (decode s.regs.cmdl.word = .command .init ∧ t.life.cycleCounter = 0 ∧
      t.life.startTimestamp = s.inputs.now) := by
  obtain ⟨i, word, run⟩ | ⟨-, -, rfl⟩ := runCommand_cases h
  · exact (exec_cases run).cadence.imp_right fun ⟨init, restarted⟩ => ⟨init ▸ word, restarted⟩
  · exact .inl ⟨rfl, rfl⟩

theorem step_reset_life (turn : currentTurn s = .setReset true) (h : step s = .next t) : t.life = Life.reset := by
  rw [step, turn] at h
  rw [next_inj h]
  rfl

/-- Settles O58: only an evaluation, INIT and a hardware reset write the counter, and only the last two the start
timestamp. -/
theorem counterLaw : Obligations.CounterLaw := by
  intro s t h
  obtain ⟨life, -⟩ | ⟨turn, -⟩ | ⟨moves, ready, run⟩ | ⟨moves, run⟩ := step_turn h
  · exact ⟨.inl (by rw [life]), .inl (by rw [life])⟩
  · have life := step_reset_life turn h
    exact ⟨.inr (.inr ⟨by rw [life]; rfl, .inl turn⟩), .inr (.inr ⟨by rw [life]; rfl, turn⟩)⟩
  · obtain ⟨busy, -⟩ := commandReady_cases ready
    obtain ⟨counter, start⟩ | ⟨word, counter, start⟩ := runCommand_cadence run
    · exact ⟨.inl counter, .inl start⟩
    · exact ⟨.inr (.inr ⟨counter, .inr ⟨moves, busy, word⟩⟩), .inr (.inl ⟨start, moves, busy, word⟩)⟩
  · obtain ⟨counter, start⟩ | ⟨idle, running, free, due, life⟩ := engineStep_cadence run
    · exact ⟨.inl counter, .inl start⟩
    · have counted := cycleDue_iff.1 due
      exact ⟨.inr (.inl ⟨by rw [life]; rfl, moves, free, running, idle, counted⟩), .inl (by rw [life]; rfl)⟩

end Sys2Proof.Machine

/-! PROOFS. The mixer (44_mixer.md R190-R204, R215): O26, O28, O30, O34.

MIX's steps are run port by port against R190's loop: a port passed over (`engineStep_passOver`), a Started port whose
block is read whole (`AtStartedPort.engineRun_mixWholePort`), and one at which a sample read stops
(`AtStartedPort.engineRun_stop`). -/

namespace Sys2Proof.Machine

variable {s t : State}

/-! ### The steps of MIX are R190's loop -/

/-- The same state with MIX at port `i`. -/
abbrev State.atMixPort (s : State) (i : Nat) : State := { s with eng := { s.eng with mixPort := i } }

theorem atMixPort_eq_self {i : Nat} (port : s.eng.mixPort = i) : s.atMixPort i = s := by rw [← port]

theorem engineRun_one (s : State) : engineRun 1 s = engineStep s := by
  simp only [engineRun]
  cases engineStep s <;> rfl

/-- A run, whatever its outcome, goes on from where a run ended. -/
theorem engineRun_continue {r : Result} (h : ∃ n, engineRun n s = .next t) (h' : ∃ n, engineRun n t = r) :
    ∃ n, engineRun n s = r := by
  obtain ⟨n, hn⟩ := h
  obtain ⟨m, hm⟩ := h'
  exact ⟨n + m, (engineRun_add hn m).trans hm⟩

theorem engineStep_passOver (mix : s.eng.phase = .mix) (port : s.eng.mixPort < s.par.portCount)
    (stopped : (s.port s.eng.mixPort).started = false) :
    engineStep s = .next (s.atMixPort (s.eng.mixPort + 1)) := by
  have step : engineStep s = mixStep s := by rw [engineStep, mix]
  simp only [step, mixStep, port, if_true, stopped, Bool.false_eq_true, if_false]

theorem engineStep_mixEnd (mix : s.eng.phase = .mix) (done : s.par.portCount ≤ s.eng.mixPort) :
    engineStep s = .next (mixEnd s) := by
  have step : engineStep s = mixStep s := by rw [engineStep, mix]
  simp only [step, mixStep, Nat.not_lt.2 done, if_false]

/-- The first index at which a search over `0, 1, …` finds something. -/
theorem exists_first_of_findSome?_range {α : Type} {g : Nat → Option α} {n : Nat} {b : α}
    (h : (List.range n).findSome? g = some b) : ∃ k < n, g k = some b ∧ ∀ j < k, g j = none := by
  induction n with
  | zero => simp at h
  | succ n ih =>
    rw [List.range_succ, List.findSome?_append] at h
    rcases before : (List.range n).findSome? g with _ | c
    · refine ⟨n, n.lt_succ_self, by simpa [before] using h, fun j hj => ?_⟩
      exact List.findSome?_eq_none_iff.1 before j (List.mem_range.2 hj)
    · obtain ⟨k, hk, found⟩ := ih (by simpa [before] using h)
      exact ⟨k, by omega, found⟩

/-- Where a sample read of the block stops, the steps of MIX come to that stop. -/
theorem AtStartedPort.engineRun_stop (h : AtStartedPort s false) (hb : s.eng.mixBuf = []) {stop : Result}
    (stops : accessesStop s 4 (blockSamples s.par (s.port s.eng.mixPort)) = some stop) :
    ∃ n, engineRun n s = stop := by
  rw [accessesStop, blockSamples, List.findSome?_map] at stops
  obtain ⟨k, hk, stopsHere, before⟩ := exists_first_of_findSome?_range stops
  refine engineRun_continue ⟨k, h.reads hb k hk.le before⟩ ⟨1, ?_⟩
  rw [Function.comp_apply] at stopsHere
  rw [engineRun_one, h.read (by simpa using hk), List.length_map, List.length_range, stopsHere]

/-- What the MIX phase answers when its loop over the ports answers `r`. -/
def mixFinish : Result → Result
  | .next t => .next (mixEnd t)
  | .fault r => .fault r
  | .refused r => .refused r

theorem mixWhole_eq (s : State) : mixWhole s = mixFinish (mixPorts (List.range s.par.portCount) s) := by
  rw [mixWhole]
  cases mixPorts (List.range s.par.portCount) s <;> rfl

theorem mixFinish_of_stop {n a : Nat} {stop : Result} (h : accessStop s n a = some stop) : mixFinish stop = stop := by
  cases stop with
  | next t => exact absurd h accessStop_not_next
  | fault r => rfl
  | refused r => rfl

theorem mixEnd_atMixPort (s : State) (i : Nat) : mixEnd (s.atMixPort i) = mixEnd s := by
  unfold mixEnd
  split <;> rfl

/-- From port `i` on, with no block under way, the steps of MIX come to R190's loop over the ports that are left. -/
theorem engineRun_mixPorts {i n : Nat} (left : i + n = s.par.portCount) (mix : s.eng.phase = .mix)
    (buf : s.eng.mixBuf = []) (zeroing : s.eng.mixZeroing = false) :
    ∃ k, engineRun k (s.atMixPort i) = mixFinish (mixPorts (List.range' i n) s) := by
  induction n generalizing i s with
  | zero =>
    refine ⟨1, ?_⟩
    rw [engineRun_one, engineStep_mixEnd (s := s.atMixPort i) mix left.ge, mixEnd_atMixPort]
    rfl
  | succ n ih =>
    have port : i < s.par.portCount := by omega
    have left' : i + 1 + n = s.par.portCount := by omega
    rw [List.range'_succ, mixPorts]
    by_cases started : (s.port i).started = true
    · have atPort : AtStartedPort (s.atMixPort i) false := ⟨mix, port, started, zeroing⟩
      rw [if_pos started]
      rcases stops : accessesStop s 4 (blockSamples s.par (s.port i)) with _ | stop
      · have plain : ∀ k < blockLength (s.port i), accessStop s 4 (blockSample s.par (s.port i) k) = none := by
          simpa [accessesStop, blockSamples] using stops
        exact engineRun_continue (atPort.engineRun_mixWholePort buf plain)
          (ih (s := mixWholePort i s) left' mix rfl rfl)
      · have finish : mixFinish stop = stop := by
          obtain ⟨a, -, ha⟩ := List.exists_of_findSome?_eq_some stops
          exact mixFinish_of_stop ha
        simpa only [finish] using atPort.engineRun_stop buf stops
    · have stopped := Bool.eq_false_of_not_eq_true started
      rw [if_neg started]
      exact engineRun_continue
        (engineRun_of_step (engineStep_passOver (s := s.atMixPort i) mix port stopped))
        (ih left' mix buf zeroing)

/-- Settles O26: the induction over the ports, from port 0. -/
theorem mixStepsAreTheLoop : Obligations.MixStepsAreTheLoop := by
  intro s mix first buf zeroing
  obtain ⟨n, run⟩ := engineRun_mixPorts (Nat.zero_add s.par.portCount) mix buf zeroing
  rw [atMixPort_eq_self first] at run
  exact ⟨n, by rw [run, mixWhole_eq, List.range_eq_range']⟩

/-! ### A cycle with no Started port -/

/-- MIX passes over the first `k` ports when none of them is Started, whatever block was left half read. -/
theorem engineRun_passOver (mix : s.eng.phase = .mix) (first : s.eng.mixPort = 0) {k : Nat} (hk : k ≤ s.par.portCount)
    (stopped : ∀ i < k, (s.port i).started = false) : engineRun k s = .next (s.atMixPort k) := by
  induction k with
  | zero => rw [atMixPort_eq_self first, engineRun]
  | succ k ih =>
    rw [engineRun_add (ih (by omega) fun i hi => stopped i (by omega)) 1, engineRun_one]
    exact engineStep_passOver (s := s.atMixPort k) mix hk (stopped k k.lt_succ_self)

/-- The end of a MIX in which no port was mixed (R198). -/
theorem mixEnd_silent (inactive : s.eng.anyActive = false) :
    (mixEnd s).eng.acc2 = List.replicate Config.frames (0, 0) ∧
    (mixEnd s).eng.acc8 = List.replicate Config.frames (List.replicate Config.rawCh 0) := by
  simp [mixEnd, inactive, Engine.silence, Engine.setFrames]

@[simp] theorem rneShift_zero (k : Nat) : rneShift 0 k = 0 := by simp [rneShift]

/-- The value +0.0 converts to the int16 0, whatever the scale, when the lower bound is not positive (R215). -/
theorem conv16_zero {p : Params} (lower : p.pcm16Min ≤ 0) (k : Nat) : conv16 p k 0 = 0 := by
  have noNaN : ¬f32IsNaN 0 = true := by decide
  have noInf : ¬f32IsInf 0 = true := by decide
  have units : f32Units 0 = 0 := by decide
  have notBelow : ¬(0 : Int) < p.pcm16Min := by omega
  simp only [conv16, if_neg noNaN, if_neg noInf, units, Nat.zero_mul, rneShift_zero]
  simp [sat, notBelow]

theorem convSample_zero {p : Params} (lower : p.pcm16Min ≤ 0) (fmt : Bool) (k : Nat) :
    convSample p fmt k 0 = if fmt then .float 0 else .pcm16 0 := by
  rw [convSample, conv16_zero lower, convF]

/-- Silence converts to samples 0 (R215). -/
theorem eq_of_mem_convertedMix_silent (lower : s.par.pcm16Min ≤ 0)
    (silent : s.eng.acc2 = List.replicate Config.frames (0, 0)) {x : Sample} (hx : x ∈ convertedMix s) :
    x = if outFmt s then .float 0 else .pcm16 0 := by
  obtain ⟨f, hf, hx⟩ := List.mem_flatMap.1 hx
  have frame : s.eng.acc2.getD f (0, 0) = (0, 0) := by
    rw [silent]
    exact List.getD_replicate _ (List.mem_range.1 hf)
  simpa only [frame, convSample_zero lower, List.mem_cons, List.not_mem_nil, or_false, or_self] using hx

/-- Settles O34: MIX passes over every port and ends in silence. -/
theorem idleCycleIsSilent : Obligations.IdleCycleIsSilent := by
  intro s wf mix first inactive stopped
  have passed := engineRun_passOver mix first le_rfl stopped
  have ends := engineStep_mixEnd (s := s.atMixPort s.par.portCount) mix le_rfl
  obtain ⟨acc2, acc8⟩ := mixEnd_silent (s := s.atMixPort s.par.portCount) inactive
  have lower : s.par.pcm16Min ≤ 0 := by
    obtain ⟨-, -, -, -, min, -⟩ := wf
    omega
  refine ⟨_, mixEnd (s.atMixPort s.par.portCount), (engineRun_add passed 1).trans ((engineRun_one _).trans ends), rfl,
    fun f hf => ⟨?_, ?_⟩, fun a => rfl, fun x hx =>
      eq_of_mem_convertedMix_silent (s := mixEnd (s.atMixPort s.par.portCount)) lower acc2 hx⟩
  · rw [acc2]
    exact List.getD_replicate _ hf
  · rw [acc8]
    exact List.getD_replicate _ hf

/-! ### The forms of a frame -/

/-- Settles O28: for a block of 2, 6 or 8 channels each form is what `mixFrame` computes, channel by channel. -/
theorem frameFormsFollowTheirRules : Obligations.FrameFormsFollowTheirRules :=
  fun _ _ _ _ _ _ _ _ _ _ _ _ => ⟨rfl, rfl, rfl, rfl, rfl, rfl⟩

/-- The draw numbers of the stereo result of a 6-channel frame. -/
def downmix6Draws (k : Nat) (j : Fin 6) : Nat := k + 8 + j

/-- Settles O30: the 6-channel form of O28, in which gain 1.0 leaves every sample unchanged (`fmul_one`). -/
theorem downmixProperty : Obligations.DownmixProperty := by
  intro K k acc l r c f rl rr noNaN
  have unchanged (n : Nat) {x : F32} (hx : x ∈ [l, r, c, f, rl, rr]) : fmul n x 0x3F800000#32 = x :=
    fmul_one n (noNaN x hx)
  obtain ⟨-, six, -⟩ := frameFormsFollowTheirRules K 0x3F800000#32 k acc l r c f rl rr 0 0
  refine ⟨downmix6Draws k, (congrArg Prod.fst six).trans ?_⟩
  simp [unchanged, downmix6Draws]

end Sys2Proof.Machine

/-! PROOFS. Conversion, the output slots, the queue and the consumer's pop (45_format_output.md R210-R221): O36, O37,
O38, O39, O40, O41, O42.

At the scale 32768.0 conv16 rounds `x × 2^15`, in units of 2^-149, to an integer (`conv16_of_isFinite`); the clipping
property is read off its being nearest.  `step_slots` says once what a step can do to the output slots. -/

namespace Sys2Proof.Machine

variable {s t : State}

/-! ### conv16 -/

/-- A common power of two in number and divisor does not change the rounding. -/
theorem rneShift_mul_two_pow (n k j : Nat) : rneShift (n * 2 ^ j) (k + j) = rneShift n k := by
  have scale : 0 < 2 ^ j := by positivity
  have quotient : n * 2 ^ j / 2 ^ (k + j) = n / 2 ^ k := by rw [Nat.pow_add, Nat.mul_div_mul_right _ _ scale]
  have rest : n * 2 ^ j % 2 ^ (k + j) = n % 2 ^ k * 2 ^ j := by rw [Nat.pow_add, Nat.mul_mod_mul_right]
  have above : 2 * (n % 2 ^ k * 2 ^ j) > 2 ^ (k + j) ↔ 2 * (n % 2 ^ k) > 2 ^ k := by
    rw [← Nat.mul_assoc, Nat.pow_add, gt_iff_lt, Nat.mul_lt_mul_right scale]
  have tie : 2 * (n % 2 ^ k * 2 ^ j) = 2 ^ (k + j) ↔ 2 * (n % 2 ^ k) = 2 ^ k := by
    rw [← Nat.mul_assoc, Nat.pow_add, Nat.mul_left_inj scale.ne']
  simp only [rneShift, Nat.shiftRight_eq_div_pow, quotient, rest, above, tie]

/-- `r` is an integer nearest to `t / 2^k`, and even where another is as near. -/
def IsNearestInt (k : Nat) (t r : Int) : Prop :=
  |2 * (t - r * 2 ^ k)| ≤ 2 ^ k ∧ (|2 * (t - r * 2 ^ k)| = 2 ^ k → r % 2 = 0)

theorem rneShift_isNearestInt (n k : Nat) : IsNearestInt k n (rneShift n k) := by
  have choice := rneShift_cases n k
  have split := Nat.div_add_mod' n (2 ^ k)
  have rest : n % 2 ^ k < 2 ^ k := Nat.mod_lt _ (by positivity)
  have cast : (2 : Int) ^ k = ((2 ^ k : Nat) : Int) := by push_cast; rfl
  rw [IsNearestInt, cast, Int.abs_eq_natAbs]
  generalize 2 ^ k = unit at *
  obtain ⟨down, near, tie⟩ | ⟨up, near, tie⟩ := choice
  · have value : (n : Int) - (rneShift n k : Nat) * unit = (n % unit : Nat) := by
      rw [down, ← Nat.cast_mul]; omega
    rw [value]; omega
  · have value : (n : Int) - (rneShift n k : Nat) * unit = (n % unit : Nat) - unit := by
      rw [up, ← Nat.cast_mul, Nat.succ_mul]; omega
    rw [value]; omega

theorem IsNearestInt.neg {k : Nat} {t r : Int} (h : IsNearestInt k t r) : IsNearestInt k (-t) (-r) := by
  have mirror : 2 * (-t - -r * 2 ^ k) = -(2 * (t - r * 2 ^ k)) := by ring
  rw [IsNearestInt, mirror, abs_neg]
  exact ⟨h.1, fun tie => by have := h.2 tie; omega⟩

theorem IsNearestInt.signedInt {k n r : Nat} (h : IsNearestInt k n r) (sign : Bool) :
    IsNearestInt k (signedInt sign n) (signedInt sign r) := by
  cases sign
  · exact h
  · exact h.neg

section Conv16
variable {p : Params} (k : Nat) {x : F32}

/-- The integer that conv16 saturates: `x × 32768` rounded. -/
def scaledInt (x : F32) : Int := signedInt x.msb (rneShift (f32Units x * 2 ^ 15) 149)

theorem scaledInt_isNearestInt (x : F32) : IsNearestInt 149 (f32Int x * 2 ^ 15) (scaledInt x) := by
  have exact : f32Int x * 2 ^ 15 = signedInt x.msb (f32Units x * 2 ^ 15) := by
    rw [f32Int_eq]
    cases x.msb <;> simp [signedInt]
  rw [exact]
  exact (rneShift_isNearestInt _ _).signedInt _

theorem conv16_of_isNaN (nan : f32IsNaN x = true) : conv16 p k x = Config.freePcm16 k := if_pos nan

theorem conv16_of_isInf (scale : p.pcm16Scale = 0x47000000#32) (inf : f32IsInf x = true) :
    conv16 p k x = BitVec.ofInt 16 (if x.msb then p.pcm16Min else 32767) := by
  have sign : (f32Sign x != f32Sign p.pcm16Scale) = x.msb := by rw [scale]; exact Bool.bne_false _
  simp only [conv16, f32IsNaN_of_isInf inf, inf, sign, Bool.false_eq_true, if_true, if_false]

theorem conv16_of_isFinite (scale : p.pcm16Scale = 0x47000000#32) (finite : f32IsFinite x = true) :
    conv16 p k x = BitVec.ofInt 16 (sat p.pcm16Min 32767 (scaledInt x)) := by
  have sign : (f32Sign x != f32Sign p.pcm16Scale) = x.msb := by rw [scale]; exact Bool.bne_false _
  have product : f32Units x * f32Units p.pcm16Scale = f32Units x * 2 ^ 15 * 2 ^ 149 := by
    rw [scale, Nat.mul_assoc]; rfl
  have rounded := rneShift_mul_two_pow (f32Units x * 2 ^ 15) 149 149
  simp only [conv16, f32IsNaN_of_isFinite finite, f32IsInf_of_isFinite finite, sign, product, Bool.false_eq_true,
    if_false, rounded]
  rfl

theorem sat_eq_max_min {lo hi v : Int} (h : lo ≤ hi) : sat lo hi v = max lo (min hi v) := by
  unfold sat
  split
  · omega
  · split <;> omega

/-- An int16 holds every saturated value. -/
theorem toInt_ofInt_sat {lo v : Int} (lower : lo = -32768 ∨ lo = -32767) :
    (BitVec.ofInt 16 (sat lo 32767 v)).toInt = sat lo 32767 v := by
  rw [sat_eq_max_min (by omega), BitVec.toInt_ofInt]
  exact Int.bmod_eq_of_le (by omega) (by omega)

/-- R214: no integer below 32767 is nearest to more than 32766.5. -/
theorem conv16_clips (scale : p.pcm16Scale = 0x47000000#32) (lower : p.pcm16Min ≤ 32767)
    (finite : f32IsFinite x = true) (above : 65533 * 2 ^ 148 < f32Int x * 2 ^ 15) : conv16 p k x = 0x7FFF#16 := by
  have near := (abs_le.1 (scaledInt_isNearestInt x).1).2
  have saturated : sat p.pcm16Min 32767 (scaledInt x) = 32767 := by rw [sat_eq_max_min lower]; omega
  rw [conv16_of_isFinite k scale finite, saturated]
  rfl

/-- R214: of the two integers next to 32766.5 the even one is 32766. -/
theorem conv16_tie (scale : p.pcm16Scale = 0x47000000#32) (lower : p.pcm16Min ≤ 32766)
    (finite : f32IsFinite x = true) (half : f32Int x * 2 ^ 15 = 65533 * 2 ^ 148) : conv16 p k x = 0x7FFE#16 := by
  obtain ⟨near, tie⟩ := scaledInt_isNearestInt x
  rw [half, Int.abs_eq_natAbs] at near tie
  have kept : sat p.pcm16Min 32767 (scaledInt x) = 32766 := by rw [sat_eq_max_min (by omega)]; omega
  rw [conv16_of_isFinite k scale finite, kept]
  rfl

end Conv16

/-- Settles O36: one equation of `conv16` for each class of inputs. -/
theorem conv16RoundsAndSaturates : Obligations.Conv16RoundsAndSaturates := by
  intro p k x scale lower
  refine ⟨fun finite => ?_, fun inf => ?_, conv16_of_isNaN k⟩
  · obtain ⟨near, tie⟩ := scaledInt_isNearestInt x
    exact ⟨scaledInt x, near, tie, by rw [conv16_of_isFinite k scale finite, toInt_ofInt_sat lower]⟩
  · rw [conv16_of_isInf k scale inf]
    obtain min | min := lower <;> rw [min] <;> cases x.msb <;> rfl

/-- Settles O37: `conv16_clips` and `conv16_tie`; the value 2.0 is one of those clipped. -/
theorem clippingProperty : Obligations.ClippingProperty := by
  intro p k x scale lower
  have two : conv16 p k 0x40000000#32 = 0x7FFF#16 := conv16_clips k scale (by omega) rfl (by decide)
  exact ⟨conv16_clips k scale (by omega), conv16_tie k scale (by omega), conv16_of_isInf k scale rfl, two⟩

/-! ### CONVERT -/

theorem queueFull_iff : queueFull s = true ↔ 32 ≤ s.out.q.length := decide_eq_true_iff

theorem engineStep_of_convert (convert : s.eng.phase = .convert) : engineStep s = .next (convertStep s) := by
  rw [engineStep, convert]

theorem convertStep_holds (first : s.out.wmix = 0) (full : 32 ≤ s.out.q.length) :
    convertStep s = s.setPhase .hold := if_pos ⟨first, queueFull_iff.2 full⟩

theorem convertStep_fills (free : ¬(s.out.wmix = 0 ∧ 32 ≤ s.out.q.length)) : convertStep s = convertFill s :=
  if_neg (by rwa [queueFull_iff])

/-- A list made of pairs: the entries at even and at odd places. -/
theorem getElem?_flatMap_pair {α β : Type} (g h : α → β) (l : List α) (n : Nat) :
    (l.flatMap fun x => [g x, h x])[2 * n]? = l[n]?.map g ∧
    (l.flatMap fun x => [g x, h x])[2 * n + 1]? = l[n]?.map h := by
  induction l generalizing n with
  | nil => simp
  | cons x l ih =>
    cases n with
    | zero => simp
    | succ n => simpa [Nat.mul_add] using ih n

/-- Frame `f` of the converted mix, left first (R211). -/
theorem convertedMix_getD (s : State) {f : Nat} (hf : f < Config.frames) (d : Sample) :
    (convertedMix s).getD (2 * f) d =
      convSample s.par (outFmt s) (s.draws + 2 * f) (s.eng.acc2.getD f (0, 0)).1 ∧
    (convertedMix s).getD (2 * f + 1) d =
      convSample s.par (outFmt s) (s.draws + 2 * f + 1) (s.eng.acc2.getD f (0, 0)).2 := by
  have pair := getElem?_flatMap_pair
    (fun f => convSample s.par (outFmt s) (s.draws + 2 * f) (s.eng.acc2.getD f (0, 0)).1)
    (fun f => convSample s.par (outFmt s) (s.draws + 2 * f + 1) (s.eng.acc2.getD f (0, 0)).2)
    (List.range Config.frames) f
  rw [List.getElem?_range hf] at pair
  obtain ⟨left, right⟩ := pair
  simp only [List.getD_eq_getElem?_getD]
  exact ⟨congrArg (Option.getD · d) left, congrArg (Option.getD · d) right⟩

theorem convSample_float (p : Params) (k : Nat) (x : F32) : convSample p true k x = .float x := rfl

theorem convSample_pcm16 (p : Params) (k : Nat) (x : F32) : convSample p false k x = .pcm16 (conv16 p k x) := rfl

section WriteOver
variable {old new : List Sample} {at_ n : Nat} (d : Sample)

theorem writeOver_getD_inside (begins : at_ ≤ old.length) (hn : n < new.length) :
    (writeOver old at_ new).getD (at_ + n) d = new.getD n d := by
  simp [writeOver, List.getElem?_append, begins, hn]

theorem writeOver_getD_outside (begins : at_ ≤ old.length) (outside : n < at_ ∨ at_ + new.length ≤ n) :
    (writeOver old at_ new).getD n d = old.getD n d := by
  simp only [List.getD_eq_getElem?_getD, writeOver, List.append_assoc]
  obtain before | after := outside
  · rw [List.getElem?_append_left (by simp; omega), List.getElem?_take_of_lt before]
  · have len : (old.take at_).length = at_ := by simp [begins]
    rw [List.getElem?_append_right (by omega), List.getElem?_append_right (by omega), List.getElem?_drop]
    congr 2
    omega

end WriteOver

/-- CONVERT has room in slot WSLOT for one more cycle's 512 samples (R211). -/
theorem OutInv.room (h : OutInv s) :
    s.out.wslot.val < s.out.slots.length ∧
    2 * (s.out.wmix * 256) + 512 ≤ (s.out.slots.getD s.out.wslot.val []).length := by
  have hlt : s.out.wslot.val < s.out.slots.length := h.slots ▸ s.out.wslot.isLt
  refine ⟨hlt, ?_⟩
  have wmix := h.wmix
  rw [List.getD_eq_getElem _ _ hlt, h.samples _ (List.getElem_mem hlt), Params.slotSamples, Config.frames]
  omega

theorem filledSlot_eq (s : State) : filledSlot s =
    writeOver (s.out.slots.getD s.out.wslot.val []) (2 * (s.out.wmix * 256)) (convertedMix s) := rfl

/-- Frame `f` of the cycle stands at the running offset, left first (R211). -/
theorem filledSlot_getD_inside (h : OutInv s) {f : Nat} (hf : f < 256) (d : Sample) :
    (filledSlot s).getD (2 * (s.out.wmix * 256 + f)) d =
      convSample s.par (outFmt s) (s.draws + 2 * f) (s.eng.acc2.getD f (0, 0)).1 ∧
    (filledSlot s).getD (2 * (s.out.wmix * 256 + f) + 1) d =
      convSample s.par (outFmt s) (s.draws + 2 * f + 1) (s.eng.acc2.getD f (0, 0)).2 := by
  have length : (convertedMix s).length = 512 := convertedMix_length
  have begins := Nat.le_of_add_right_le h.room.2
  obtain ⟨left, right⟩ := convertedMix_getD s hf d
  rw [← left, ← right, Nat.mul_add, Nat.add_assoc, filledSlot_eq]
  exact ⟨writeOver_getD_inside d begins (by omega), writeOver_getD_inside d begins (by omega)⟩

/-- The rest of the slot is as it was (R211). -/
theorem filledSlot_getD_outside (h : OutInv s) {n : Nat}
    (outside : n < 512 * s.out.wmix ∨ 512 * s.out.wmix + 512 ≤ n) (d : Sample) :
    (filledSlot s).getD n d = (s.out.slots.getD s.out.wslot.val []).getD n d := by
  have length : (convertedMix s).length = 512 := convertedMix_length
  have begins := Nat.le_of_add_right_le h.room.2
  rw [filledSlot_eq]
  exact writeOver_getD_outside d begins (by omega)

@[simp] theorem advanceSlot_slots (n : Nat) (o : OutPath) : (advanceSlot n o).slots = o.slots := by
  unfold advanceSlot
  split <;> rfl

theorem convertFill_slots (s : State) :
    (convertFill s).out.slots = s.out.slots.set s.out.wslot.val (filledSlot s) := advanceSlot_slots ..

theorem convertFill_slot_wslot (h : OutInv s) :
    (convertFill s).out.slots.getD s.out.wslot.val [] = filledSlot s := by
  rw [convertFill_slots, List.getD_eq_getElem _ _ (by simpa using h.room.1), List.getElem_set_self]

theorem slot_of_set {j : Fin 32} {x : List Sample} (slots : t.out.slots = s.out.slots.set s.out.wslot.val x)
    (other : j ≠ s.out.wslot) : t.out.slots.getD j.val [] = s.out.slots.getD j.val [] := by
  simp [slots, List.getElem?_set_ne (Fin.val_ne_of_ne other.symm)]

/-- WMIX, WSLOT and Q below the slot's capacity (R211). -/
theorem convertFill_counts (below : s.out.wmix + 1 ≠ s.par.slotMixes) :
    (convertFill s).out.wmix = s.out.wmix + 1 ∧ (convertFill s).out.wslot = s.out.wslot ∧
    (convertFill s).out.q = s.out.q := by
  simp [convertFill, advanceSlot, below]

/-- WMIX, WSLOT and Q at the slot's capacity (R211, R216). -/
theorem convertFill_pushes (capacity : s.out.wmix + 1 = s.par.slotMixes) :
    (convertFill s).out.wmix = 0 ∧ (convertFill s).out.wslot.val = (s.out.wslot.val + 1) % 32 ∧
    (convertFill s).out.q = s.out.q ++ [s.out.wslot] := by
  simp [convertFill, advanceSlot, capacity, Fin.val_add]

/-- Settles O38: with a full queue CONVERT holds; otherwise it is `convertFill`, whose slot is `filledSlot`. -/
theorem convertAppends : Obligations.ConvertAppends := by
  intro s h convert
  have capacity : s.out.q.length ≤ 32 := h.ring.1
  rw [engineStep_of_convert convert]
  refine ⟨fun ⟨first, full⟩ => ?_, fun free => ⟨convertFill s, ?_, fun f hf => ?_, fun n outside => ?_,
    fun j => slot_of_set (convertFill_slots s), convertFill_counts, convertFill_pushes, advanceSlot_sent _ _,
    rfl, rfl, rfl, rfl, rfl, fun _ => rfl⟩⟩
  · rw [convertStep_holds first full.ge]
    rfl
  · rw [convertStep_fills (by omega)]
  · obtain ⟨left, right⟩ := filledSlot_getD_inside h hf (.pcm16 0)
    simp only [convertFill_slot_wslot h]
    refine ⟨fun float => ?_, fun pcm16 => ?_⟩
    · rw [show outFmt s = true from float, convSample_float] at left right
      exact ⟨left, right⟩
    · rw [show outFmt s = false from pcm16, convSample_pcm16] at left right
      exact ⟨left, right⟩
  · rw [convertFill_slot_wslot h]
    exact filledSlot_getD_outside h outside _

/-! ### HOLD -/

theorem stopCheck_eq_none (noReq : s.life.stopReq = false) (noEnv : s.inputs.envStop = false) :
    stopCheck s = none := by
  simp [stopCheck, noReq, noEnv]

/-- Settles O39: the way into HOLD is `convertStep_holds`; with no stop asked for, the queue decides how it goes on. -/
theorem holdFollowsItsRule : Obligations.HoldFollowsItsRule := by
  intro s
  refine ⟨fun convert first full => ?_, fun hold noReq noEnv full => ?_, fun hold noReq noEnv free => ?_⟩
  · rw [engineStep_of_convert convert, convertStep_holds first full]
    rfl
  · rw [engineStep_of_hold hold, holdStep, stopCheck_eq_none noReq noEnv]
    exact congrArg _ (if_pos (queueFull_iff.2 full))
  · rw [engineStep_of_hold hold, holdStep, stopCheck_eq_none noReq noEnv]
    exact congrArg _ (if_neg (by rw [queueFull_iff]; omega))

/-! ### The consumer's pop -/

/-- Settles O40: the three ways of a pop exclude each other. -/
theorem popDeliversInOrder : Obligations.PopDeliversInOrder := by
  intro s turn
  have pop : step s = .next (consumerPop (beginTurn s)) := by rw [step, turn, takeTurn]
  rw [pop]
  refine ⟨fun j rest queued => ?_, fun empty sent => ?_, fun empty unsent => ?_⟩
  · simp only [consumerPop, beginTurn_out, queued]
    rfl
  · simp only [consumerPop, beginTurn_out, empty, sent]
    rfl
  · simp only [consumerPop, beginTurn_out, empty, unsent]
    rfl

/-! ### Serialised slots -/

/-- The bytes of a word are its bit fields of 8 bits, least significant first. -/
theorem littleBytes_toNat {w : Nat} (n : Nat) (v : BitVec w) :
    littleBytes n v.toNat = (List.range n).map fun k => v.extractLsb' (8 * k) 8 := by
  simp [littleBytes, BitVec.extractLsb', Nat.shiftRight_eq_div_pow]

section SampleBytes
variable {p : Params} (little : p.outBigEndian = false)
include little

theorem sampleBytes_pcm16 (v : BitVec 16) : sampleBytes p (.pcm16 v) = littleBytes 2 v.toNat :=
  if_neg (by simp [little])

theorem sampleBytes_float (v : F32) : sampleBytes p (.float v) = littleBytes 4 v.toNat :=
  if_neg (by simp [little])

end SampleBytes

/-- A slot whose samples all have `n` bytes. -/
theorem length_slotBytes {p : Params} {n : Nat} {xs : List Sample} (each : ∀ x ∈ xs, (sampleBytes p x).length = n) :
    (slotBytes p xs).length = n * xs.length := by
  rw [slotBytes, List.length_flatMap, List.map_congr_left each]
  simp [Nat.mul_comm]

/-- Settles O41: `littleBytes` of each kind of sample. -/
theorem slotBytesAreSerialised : Obligations.SlotBytesAreSerialised := by
  intro p little
  refine ⟨fun v => ?_, fun v => ?_, fun vs => ?_, fun vs => ?_⟩
  · rw [sampleBytes_pcm16 little, littleBytes_toNat]
    rfl
  · rw [sampleBytes_float little, littleBytes_toNat]
    rfl
  · rw [length_slotBytes (n := 2), List.length_map]
    simp [sampleBytes_pcm16 little, length_littleBytes]
  · rw [length_slotBytes (n := 4), List.length_map]
    simp [sampleBytes_float little, length_littleBytes]

/-! ### The queued slots -/

/-- The queue holds no slot twice (R221). -/
theorem inRingOrder.nodup {w : Fin 32} {q : List (Fin 32)} (h : inRingOrder w q) : q.Nodup := by
  obtain ⟨size, order⟩ := h
  refine List.Nodup.of_map Fin.val ?_
  rw [order]
  refine List.Nodup.map_on (fun j hj k hk same => ?_) List.nodup_range
  rw [List.mem_range] at hj hk
  omega

/-- Unless the queue is full, the slot being filled is not in it (R221). -/
theorem inRingOrder.wslot_notMem {w : Fin 32} {q : List (Fin 32)} (h : inRingOrder w q) (free : q.length < 32) :
    w ∉ q := by
  obtain ⟨-, order⟩ := h
  intro queued
  have place : w.val ∈ q.map Fin.val := List.mem_map_of_mem queued
  rw [order] at place
  obtain ⟨k, hk, eq⟩ := List.mem_map.1 place
  rw [List.mem_range] at hk
  omega

/-- What a step can do to the output slots: nothing, or CONVERT's write into slot WSLOT while that slot is free
(R211). -/
inductive SlotWrite (s t : State) : Prop
  | none (slots : t.out.slots = s.out.slots)
  | filled (free : 0 < s.out.wmix ∨ queueFull s = false)
      (slots : t.out.slots = s.out.slots.set s.out.wslot.val (filledSlot s))

theorem stopCheck_slots (h : stopCheck s = some t) : t.out.slots = s.out.slots := by
  rw [stopCheck_eq_finalize h, finalize_slots]

theorem idleStep_slots (s : State) : (idleStep s).out.slots = s.out.slots := by
  obtain ⟨-, eq⟩ | ⟨-, stop⟩ | ⟨-, -, -, eq⟩ | ⟨-, -, -, eq⟩ := idleStep_cases (s := s) rfl
  · rw [eq]
  · exact stopCheck_slots stop
  · rw [eq]
  · obtain ⟨-, eq'⟩ | ⟨-, -, eq'⟩ | ⟨-, -, eq'⟩ := evaluate_cases (s := s) rfl <;> rw [eq, eq'] <;> rfl

theorem holdStep_slots (s : State) : (holdStep s).out.slots = s.out.slots := by
  obtain stop | ⟨-, -, eq⟩ | ⟨-, -, eq⟩ := holdStep_cases (s := s) rfl
  · exact stopCheck_slots stop
  · rw [eq]
  · rw [eq, setPhase_out]

theorem mixStep_out (h : mixStep s = .next t) : t.out = s.out := by
  obtain ⟨-, -, h⟩ | ⟨-, -, rfl⟩ | ⟨-, rfl⟩ := mixStep_cases h
  · obtain ⟨-, -, h⟩ | ⟨-, -, rfl⟩ | ⟨-, -, rfl⟩ | ⟨-, -, rfl⟩ := mixStarted_cases h
    · obtain ⟨-, rfl⟩ := mixRead_cases h
      rfl
    all_goals rfl
  all_goals rfl

theorem notifyStep_out (h : notifyStep s = .next t) : t.out = s.out := by
  obtain ⟨-, -, h⟩ | ⟨-, -, rfl⟩ | ⟨-, rfl⟩ := notifyStep_cases h
  · obtain ⟨-, rfl⟩ | ⟨np, -, -, rfl⟩ := notifyStarted_cases h <;> rfl
  all_goals rfl

theorem convertStep_slots (s : State) : SlotWrite s (convertStep s) := by
  obtain ⟨-, -, eq⟩ | ⟨free, eq⟩ := convertStep_cases (s := s) rfl <;> rw [eq]
  · exact .none rfl
  · exact .filled free (convertFill_slots s)

theorem engineStep_slots (h : engineStep s = .next t) : SlotWrite s t := by
  obtain ⟨-, rfl⟩ | ⟨-, h⟩ | ⟨-, rfl⟩ | ⟨-, rfl⟩ | ⟨-, h⟩ := engineStep_cases h
  · exact .none (idleStep_slots s)
  · exact .none (by rw [mixStep_out h])
  · exact convertStep_slots s
  · exact .none (holdStep_slots s)
  · exact .none (by rw [notifyStep_out h])

theorem amxStep_slots (h : amxStep s = .next t) : SlotWrite s t := by
  obtain ⟨-, rfl⟩ | ⟨-, -, h⟩ | ⟨-, -, h⟩ := amxStep_cases h
  · exact .none rfl
  · obtain ⟨i, -, h⟩ | ⟨w, -, rfl⟩ := runCommand_cases h
    · exact .none (exec_cases h).frame.slots
    · exact .none rfl
  · exact engineStep_slots h

theorem step_slots (h : step s = .next t) (noReset : currentTurn s ≠ .setReset true) : SlotWrite s t := by
  unfold step at h
  rcases hturn : currentTurn s with _ | ⟨off, width, v⟩ | ⟨off, width⟩ | _ | ⟨addr, bytes⟩ | v | v | v | v | v | v <;>
    rw [hturn] at h
  case amx =>
    obtain slots | ⟨free, slots⟩ := amxStep_slots h
    · exact .none slots
    · exact .filled free slots
  all_goals obtain rfl := next_inj h
  case hostWrite =>
    obtain ⟨r, o, eq⟩ := hostWrite_frame off width v (beginTurn s)
    rw [eq]
    exact .none rfl
  case hostRead =>
    obtain ⟨r, o, eq⟩ := hostRead_frame off width (beginTurn s)
    rw [eq]
    exact .none rfl
  case pop =>
    obtain ⟨j, rest, -, eq⟩ | ⟨-, -, eq⟩ | ⟨-, -, eq⟩ := consumerPop_cases (s := beginTurn s) rfl <;> rw [eq] <;>
      exact .none rfl
  case setReset =>
    cases v
    · exact .none rfl
    · exact absurd hturn noReset
  all_goals exact .none rfl

/-- Settles O42: the ring order keeps WSLOT out of a queue that is not full, and a step writes slot WSLOT at most. -/
theorem queuedSlotsAreOwnedByTheConsumer : Obligations.QueuedSlotsAreOwnedByTheConsumer := by
  intro s h
  refine ⟨fun begun => h.out.ring.wslot_notMem (h.out.begun begun), h.out.ring.nodup, fun t hs noReset j queued => ?_⟩
  obtain slots | ⟨free, slots⟩ := step_slots hs noReset
  · rw [slots]
  · have room : s.out.q.length < 32 := free.elim h.out.begun (by simp [queueFull])
    exact slot_of_set slots fun same => h.out.ring.wslot_notMem room (same ▸ queued)

end Sys2Proof.Machine

/-! PROOFS. What a failed command leaves alone (60_exceptions.md R262): O22. -/

namespace Sys2Proof.Machine

variable {s t : State}

/-- A command that ends with another status than OK was turned away: QUIT is not over while it holds, and every other
outcome ends with OK. -/
theorem Executed.turnedAway_of_failed {i : Instr} (h : Executed s i t) (latched : s.regs.busy = true)
    (ended : t.regs.busy = false) (failed : t.regs.status ≠ .ok) : TurnedAway s t := by
  cases h with
  | turnedAway away => exact away
  | quitHolds =>
    rw [quitRequested_eq_life] at ended
    exact absurd (latched.symm.trans ended) (by simp)
  | initFailed | initRunning | quitCompletes | opened | closed | started | stopped | level | answered =>
    exact absurd rfl failed

/-- A latched word that ends with another status than OK comes to `finish`, whether it is a command or illegal. -/
theorem runCommand_failed (h : runCommand s = .next t) (latched : s.regs.busy = true)
    (ended : t.regs.busy = false) (failed : t.regs.status ≠ .ok) : TurnedAway s t := by
  obtain ⟨i, -, run⟩ | ⟨w, -, rfl⟩ := runCommand_cases h
  · exact (exec_cases run).turnedAway_of_failed latched ended failed
  · exact ⟨.illegalCmd, by simp, by simp, by simp, rfl⟩

/-- Settles O22: a failed command or word is turned away, and `finish` writes STATUS and BUSY only. -/
theorem failedCommandChangesOnlyCmdstat : Obligations.FailedCommandChangesOnlyCmdstat := by
  intro i s t latched run ended failed
  have away : TurnedAway s t := run.elim
    (fun command => (exec_cases command).turnedAway_of_failed latched ended failed)
    (fun word => runCommand_failed word latched ended failed)
  obtain ⟨c, -, -, -, rfl⟩ := away
  rfl

end Sys2Proof.Machine
